-- ==== Sys2Proof/Word.lean ====
section
/-! DEFINITION. The word types of the 4160: bytes, tags, fingerprints. Number fields that the part adds, shifts or sends are bit vectors of the width the manual gives. -/

namespace Sys2Proof

/-- One byte of a frame, an entry image or the reserved region. -/
abbrev Byte := BitVec 8

/-- A 16-bit tag (R130). -/
abbrev Tag := BitVec 16

/-- A port's 16-bit session number, and the mark a request carries of it (R145, R153). -/
abbrev Session := BitVec 16

/-- A fingerprint: 32 opaque bytes, byte 0 the most significant (R1, R2). -/
abbrev Fingerprint := BitVec 256

end Sys2Proof
end

