-- ==== Sys2Proof/Config.lean ====
section
/-! DEFINITION. What the manual fixes for every 4160 as numbers, and the two values it leaves open, which are constants without a body. -/

namespace Sys2Proof.Config

/-- Slots in a bucket (R3). -/
def bucketSlots : Nat := 8
/-- Places that one module slot of index memory spans: the largest module has 2^26 slots (R171). -/
def moduleSpan : Nat := 67108864
/-- Claim records (R43). -/
def claimRecords : Nat := 1024
/-- Waiter records in the pool (R48). -/
def waiterRecords : Nat := 2048
/-- Container records (R69). -/
def containerRecords : Nat := 65536
/-- Bytes of a container (R69). -/
def containerBytes : Nat := 67108864
/-- OPEN containers a port may hold (R72, R73). -/
def openLimit : Nat := 4
/-- Entries of a port's request queue (R129). -/
def queueEntries : Nat := 32
/-- Responses listed at which a received frame is discarded (R143). -/
def responseLimit : Nat := 32
/-- Batch contexts (R110). -/
def batchContexts : Nat := 8
/-- Steady milliseconds that meet the admit persistence (R148). -/
def admitPersistence : Nat := 100
/-- Milliseconds of transmitter silence after RESTART (R177). -/
def silenceMs : Nat := 20
/-- Milliseconds of one second of the index clock (R92). -/
def secondMs : Nat := 1000
/-- Seconds the clock runs before it is saved, and by which recovery moves it on (R92, R93). -/
def clockSaveSeconds : Nat := 60
/-- The largest index clock value (R92). -/
def clockMax : Nat := 1099511627775
/-- The value at which a counter saturates (R160, R161). -/
def counterMax : Nat := 281474976710655
/-- The refcount at which an entry is PINNED (R5). -/
def refcountMax : Nat := 65535
/-- The handover count stays here once there (R50). -/
def handoverMax : Nat := 255
/-- A frame that reaches this many bytes without an end symbol is cut off (R180). -/
def frameLimit : Nat := 8192
/-- The shortest frame: request header and frame check (R131). -/
def frameMin : Nat := 12
/-- The format mark of a written index header (R173). -/
def formatMark : BitVec 32 := 0x41605AA5#32
/-- The part number IDENTIFY reports (R179). -/
def partNumber : BitVec 16 := 4160#16

/-- Free value: the vendor code IDENTIFY reports. R179 names it and gives no value. -/
opaque vendorCode : BitVec 16
/-- Free value: the revision IDENTIFY reports. R179 names it and gives no value. -/
opaque revision : BitVec 8

end Sys2Proof.Config
end

