-- ==== Sys2Proof/Syntax.lean ====
section
/-! DEFINITION. The commands of the part: one constructor for each row of the opcode table, and the operands they carry. -/

namespace Sys2Proof

/-- The four ports, and the four module slots: both are numbered 0 to 3 (R128, R171). -/
inductive Port where
  | p0 | p1 | p2 | p3
  deriving DecidableEq, Repr

/-- One value for each of four ports or module slots. -/
structure Four (α : Type) where
  a0 : α
  a1 : α
  a2 : α
  a3 : α
  deriving DecidableEq, Repr

/-- A module descriptor: size code and descriptor check (R171). -/
structure Descriptor where
  size : Byte
  check : Byte
  deriving DecidableEq, Repr

/-- What the pins present at a start: the privilege straps and the four module descriptors (R128, R171). `stood` says, for
each module slot, in which slot the module in it stood before this start, none for a module from outside: modules may have
been moved from one slot to another (R172, log 5). -/
structure StartInputs where
  straps : Four (BitVec 2)
  descriptors : Four Descriptor
  stood : Four (Option Port)
  deriving DecidableEq, Repr

/-- Every module stands where it stood. -/
def StartInputs.unmoved : Four (Option Port) := ⟨some .p0, some .p1, some .p2, some .p3⟩

/-- How far a recovery or FORMAT walk had come when it was cut: the steps whose writes to index memory are made, and,
within the step that walks the slots, the slots below `slot` (R175, R176, R177). -/
structure WalkPoint where
  stage : Nat
  slot : Nat
  deriving DecidableEq, Repr

/-- A request frame behind its kind code and before its frame check, which holds (R181). `body` is the bytes between
header and check. -/
structure RequestFrame where
  format : Byte
  flags : Byte
  ns : Byte
  tag : Tag
  bodyLength : BitVec 16
  body : List Byte
  deriving DecidableEq, Repr

/-- What a port's receiver takes off the link as one frame (R180). -/
inductive Reception where
  /-- The bytes between a start symbol and an end symbol. -/
  | whole (bytes : List Byte)
  /-- The bytes of a frame that a start symbol ended. -/
  | cut (bytes : List Byte)
  /-- A frame cut off at 8,192 bytes; the bytes up to the next end symbol are discarded. -/
  | overlong
  deriving DecidableEq, Repr

/-- The two events of a request that a block takes, together or apart: its arrival at the port unit, and its taking by
the block that owns it (R142). -/
inductive RequestStep where
  /-- The frame arrives and, if it is admitted and its block can take it, the block takes it. -/
  | whole (f : RequestFrame)
  /-- The frame arrives; an admitted request is handed over and not yet taken. -/
  | arrive (f : RequestFrame)
  /-- The block takes the request with this tag, handed over earlier. -/
  | take (tag : Tag)
  deriving DecidableEq, Repr

/-- The events of a container request: those of any request that a block takes, and, apart from each other, the container
unit's own event and the handing of its outcome to the port unit, between which the port may leave ONLINE (R88, R153,
log 38). -/
inductive ContainerStep where
  /-- The arrival, or the taking with the response made in the same event (R143). -/
  | request (r : RequestStep)
  /-- The container unit takes the request with this tag and fixes its outcome, which is not yet handed to the port
  unit. -/
  | fix (tag : Tag)
  /-- The outcome fixed for the request with this tag is handed to the port unit. -/
  | hand (tag : Tag)
  deriving DecidableEq, Repr

/-- The nine parameters, in code order (R178, R184). -/
inductive Machine.Param where
  | claimWindowMs | sweepMode | sweepRate | graceS | statsMode | statsIntervalS | occupancyPct | containersLowCount
  | lossWindowMs
  deriving DecidableEq, Repr

/-- The events of SET_PARAMETER: those of any request that a block takes, and, apart from each other, the memory interface's
own event and its owner's (R178, log 39). -/
inductive ParameterStep where
  /-- The arrival, or the memory interface's event, with the owner's right behind it where the owner can take the change. -/
  | request (r : RequestStep)
  /-- The memory interface takes the request with this tag: the settings area is written, and the value is handed to the
  owner, which has yet to take it. -/
  | write (tag : Tag)
  /-- The owner of the parameter takes the earliest change handed to it, which is this port's. -/
  | own (q : Machine.Param)
  /-- A port unit takes the earliest change of LOSS_WINDOW_MS handed to it, which is this port's. -/
  | unit (u : Port)
  deriving DecidableEq, Repr

/-- A turn at the arbiter: whole, or its grant and its end as two commands with other blocks' events between (R19, R20). -/
inductive OpStep where
  | whole
  | grant
  | finish
  deriving DecidableEq, Repr

/-- The thirty-four request kinds (R184). -/
inductive Kind where
  | identify | portStatus | indexStatus | containerStatus | findEmpty | events | setEventMask | stats | getParameter
  | probe | probeBatch | cancel
  | lookup | lookupBatch | ref | commit | abandon | openContainer | closeContainer | move
  | release | releaseBatch | reclaim
  | setNamespace | setPort | admitPort | evict | drop | restore | readSlot | setParameter | snapshot | format | restart
  deriving DecidableEq, Repr

/-- The commands: one constructor for each row of the opcode table, in the table's order. -/
inductive Instr where
  /-- POWER_ON (R159). -/
  | powerOn (inputs : StartInputs)
  /-- RECOVERY (R175). -/
  | recovery
  /-- BAD_FRAME (R131). -/
  | badFrame (p : Port) (r : Reception)
  /-- FRAME_DISCARDED_LIST_FULL (R143). -/
  | frameDiscardedListFull (p : Port) (r : Reception)
  /-- RESPONSE_TRANSMITTED (R143). -/
  | responseTransmitted (p : Port)
  /-- IDENTIFY (R179). -/
  | identify (p : Port) (r : RequestStep)
  /-- PORT_STATUS (R158). -/
  | portStatus (p : Port) (r : RequestStep)
  /-- INDEX_STATUS (R179). -/
  | indexStatus (p : Port) (r : RequestStep)
  /-- CONTAINER_STATUS (R77). -/
  | containerStatus (p : Port) (r : ContainerStep)
  /-- FIND_EMPTY (R76). -/
  | findEmpty (p : Port) (r : ContainerStep)
  /-- EVENTS (R168). -/
  | events (p : Port) (r : RequestStep)
  /-- SET_EVENT_MASK (R169). -/
  | setEventMask (p : Port) (r : RequestStep)
  /-- STATS (R165). -/
  | stats (p : Port) (r : RequestStep)
  /-- GET_PARAMETER (R178). -/
  | getParameter (p : Port) (r : RequestStep)
  /-- SET_PARAMETER (R178). -/
  | setParameter (p : Port) (r : ParameterStep)
  /-- LOOKUP (R22). -/
  | lookup (p : Port) (f : RequestFrame)
  /-- PROBE (R22). -/
  | probe (p : Port) (f : RequestFrame)
  /-- REF (R22). -/
  | ref (p : Port) (f : RequestFrame)
  /-- RELEASE (R22). -/
  | release (p : Port) (f : RequestFrame)
  /-- MOVE (R83). -/
  | move (p : Port) (f : RequestFrame)
  /-- READ_SLOT (R103). -/
  | readSlot (p : Port) (f : RequestFrame)
  /-- DROP (R103). -/
  | drop (p : Port) (f : RequestFrame)
  /-- RESTORE (R106). -/
  | restore (p : Port) (f : RequestFrame)
  /-- LOOKUP_OPERATION (R30). -/
  | lookupOperation (p : Port) (st : OpStep)
  /-- PROBE_OPERATION (R31). -/
  | probeOperation (p : Port) (st : OpStep)
  /-- REF_OPERATION (R32). -/
  | refOperation (p : Port) (st : OpStep)
  /-- RELEASE_OPERATION (R34). -/
  | releaseOperation (p : Port) (st : OpStep)
  /-- MOVE_OPERATION (R83). -/
  | moveOperation (p : Port) (st : OpStep)
  /-- READ_SLOT_OPERATION (R104). -/
  | readSlotOperation (p : Port) (st : OpStep)
  /-- DROP_OPERATION (R105). -/
  | dropOperation (p : Port) (st : OpStep)
  /-- RESTORE_OPERATION (R107). -/
  | restoreOperation (p : Port) (st : OpStep)
  /-- COMMIT (R56). -/
  | commit (p : Port) (r : RequestStep)
  /-- COMMIT_ENTRY_UPDATE (R58). -/
  | commitEntryUpdate (st : OpStep)
  /-- ABANDON (R54). -/
  | abandon (p : Port) (r : RequestStep)
  /-- FREEING_UPDATE (R53). -/
  | freeingUpdate (st : OpStep)
  /-- CLAIM_EXPIRY (R55). -/
  | claimExpiry (n : Nat)
  /-- CANCEL (R61). -/
  | cancel (p : Port) (r : RequestStep)
  /-- OPEN_CONTAINER (R73). -/
  | openContainer (p : Port) (r : ContainerStep)
  /-- CLOSE_CONTAINER (R74). -/
  | closeContainer (p : Port) (r : ContainerStep)
  /-- RECLAIM (R75). -/
  | reclaim (p : Port) (r : ContainerStep)
  /-- LOOKUP_BATCH (R112). -/
  | lookupBatch (p : Port) (r : RequestStep)
  /-- PROBE_BATCH (R112). -/
  | probeBatch (p : Port) (r : RequestStep)
  /-- RELEASE_BATCH (R112). -/
  | releaseBatch (p : Port) (r : RequestStep)
  /-- BATCH_ITEM_OPERATION (R115). -/
  | batchItemOperation (st : OpStep)
  /-- ITEM_ANSWER (R118). -/
  | itemAnswer
  /-- BATCH_CANCELLATION (R122). -/
  | batchCancellation
  /-- WITHDRAWAL_REQUEST (R123). -/
  | withdrawalRequest
  /-- WITHDRAWAL_ANSWER (R123). -/
  | withdrawalAnswer
  /-- SWEEPER_BUCKET_OPERATION (R98). -/
  | sweeperBucketOperation (st : OpStep)
  /-- MILLISECOND_TICK (R146). -/
  | millisecondTick (symbols : Four Bool)
  /-- LOSS (R151). -/
  | loss (p : Port)
  /-- PERSISTENCE_MET (R148). -/
  | persistenceMet (p : Port)
  /-- FIRST_SYMBOL (R147). -/
  | firstSymbol (p : Port)
  /-- ADMIT (R155). -/
  | admitPort (p : Port) (r : RequestStep)
  /-- EVICT (R156). -/
  | evict (p : Port) (r : RequestStep)
  /-- CTU_TEARDOWN (R88). -/
  | ctuTeardown (p : Port)
  /-- BTE_TEARDOWN (R125). -/
  | bteTeardown (p : Port)
  /-- CLU_TEARDOWN (R64). -/
  | cluTeardown (p : Port)
  /-- TEARDOWN_COMPLETION (R125). -/
  | teardownCompletion
  /-- SET_NAMESPACE (R140). -/
  | setNamespace (p : Port) (r : RequestStep)
  /-- SET_PORT (R141). -/
  | setPort (p : Port) (r : RequestStep)
  /-- SNAPSHOT (R164). -/
  | snapshot (p : Port) (r : RequestStep)
  /-- INTERVAL_END (R163). -/
  | intervalEnd
  /-- INDEX_CLOCK_ADVANCE (R92). -/
  | indexClockAdvance
  /-- CLOCK_SAVE (R93). -/
  | clockSave
  /-- FORMAT (R176). -/
  | format (p : Port) (r : RequestStep)
  /-- FORMAT_AFTER_OPERATION (R19). -/
  | formatAfterOperation
  /-- FORMAT_WALK (R176). -/
  | formatWalk
  /-- RESTART (R177). -/
  | restart (p : Port) (r : RequestStep)
  /-- RESTART_RESET (R177). -/
  | restartReset (inputs : StartInputs) (w : WalkPoint)
  /-- SILENCE_END (R159). -/
  | silenceEnd
  /-- POWER_LOSS (R93). -/
  | powerLoss (w : WalkPoint)
  /-- UNKNOWN_KIND_CODE (R134). -/
  | unknownKindCode (p : Port) (code : Byte) (f : RequestFrame)
  deriving DecidableEq, Repr

end Sys2Proof
end

