-- ==== Sys2Proof/Machine/Codes.lean ====
section
/-! DEFINITION. Byte order, the two check codes, and the kind codes of frames. -/

namespace Sys2Proof.Machine

/-- The `n` low bytes of a number, most significant first: every multi-byte field on the links and in index memory
is laid out so (Conventions, Byte order). -/
def beBytes : Nat → Nat → List Byte
  | 0, _ => []
  | n + 1, v => BitVec.ofNat 8 (v / 256 ^ n) :: beBytes n v

/-- A run of bytes read as a number, the first byte the most significant. -/
def beNat (bytes : List Byte) : Nat :=
  bytes.foldl (fun acc b => acc * 256 + b.toNat) 0

/-- One bit of the 16-bit check code, generator x^16 + x^12 + x^5 + 1 (R6). -/
def crc16Bit (c : BitVec 16) : BitVec 16 :=
  if c.msb then (c <<< 1) ^^^ 0x1021#16 else c <<< 1

/-- One byte of the 16-bit check code, most significant bit first (R183). -/
def crc16Byte (c : BitVec 16) (b : Byte) : BitVec 16 :=
  let c := c ^^^ (b.setWidth 16 <<< 8)
  crc16Bit (crc16Bit (crc16Bit (crc16Bit (crc16Bit (crc16Bit (crc16Bit (crc16Bit c)))))))

/-- The 16-bit check code of R6: initial value 0xFFFF, over the bytes in order. -/
@[irreducible] def crc16 (bytes : List Byte) : BitVec 16 :=
  bytes.foldl crc16Byte 0xFFFF#16

/-- One bit of the 32-bit frame check, generator 0x1EDC6F41 (R180). -/
def crc32Bit (c : BitVec 32) : BitVec 32 :=
  if c.msb then (c <<< 1) ^^^ 0x1EDC6F41#32 else c <<< 1

/-- One byte of the 32-bit frame check, most significant bit first (R180). -/
def crc32Byte (c : BitVec 32) (b : Byte) : BitVec 32 :=
  let c := c ^^^ (b.setWidth 32 <<< 24)
  crc32Bit (crc32Bit (crc32Bit (crc32Bit (crc32Bit (crc32Bit (crc32Bit (crc32Bit c)))))))

/-- The 32-bit code of R180: initial value 0xFFFFFFFF, the result complemented. -/
@[irreducible] def crc32 (bytes : List Byte) : BitVec 32 :=
  ~~~ (bytes.foldl crc32Byte 0xFFFFFFFF#32)

/-- The bytes of a frame with its frame check behind them (R180). -/
def withFrameCheck (bytes : List Byte) : List Byte :=
  bytes ++ beBytes 4 (crc32 bytes).toNat

/-- The frame check holds: the code over every byte before the last four equals those four read as a number (R180). -/
def frameCheckHolds (bytes : List Byte) : Bool :=
  decide (beNat (bytes.drop (bytes.length - 4)) = (crc32 (bytes.take (bytes.length - 4))).toNat)

/-- The kind codes (R184). -/
def kindCode : Kind → Byte
  | .identify => 0x01#8 | .portStatus => 0x02#8 | .indexStatus => 0x03#8 | .containerStatus => 0x04#8
  | .findEmpty => 0x05#8 | .events => 0x06#8 | .setEventMask => 0x07#8 | .stats => 0x08#8
  | .getParameter => 0x09#8 | .probe => 0x0A#8 | .probeBatch => 0x0B#8 | .cancel => 0x0C#8
  | .lookup => 0x20#8 | .lookupBatch => 0x21#8 | .ref => 0x22#8 | .commit => 0x23#8
  | .abandon => 0x24#8 | .openContainer => 0x25#8 | .closeContainer => 0x26#8 | .move => 0x27#8
  | .release => 0x40#8 | .releaseBatch => 0x41#8 | .reclaim => 0x42#8
  | .setNamespace => 0x60#8 | .setPort => 0x61#8 | .admitPort => 0x62#8 | .evict => 0x63#8
  | .drop => 0x64#8 | .restore => 0x65#8 | .readSlot => 0x66#8 | .setParameter => 0x67#8
  | .snapshot => 0x68#8 | .format => 0x69#8 | .restart => 0x6A#8

/-- Every request kind, in code order (R184). -/
def allKinds : List Kind :=
  [.identify, .portStatus, .indexStatus, .containerStatus, .findEmpty, .events, .setEventMask, .stats, .getParameter,
   .probe, .probeBatch, .cancel, .lookup, .lookupBatch, .ref, .commit, .abandon, .openContainer, .closeContainer, .move,
   .release, .releaseBatch, .reclaim, .setNamespace, .setPort, .admitPort, .evict, .drop, .restore, .readSlot,
   .setParameter, .snapshot, .format, .restart]

/-- The kind a code names, if it is one of the request kind codes (R134, R184). -/
def kindOfCode (code : Byte) : Option Kind :=
  allKinds.find? (fun k => kindCode k == code)

/-- The bytes of a request frame: header, body and frame check (R181). -/
def requestBytes (code : Byte) (f : RequestFrame) : List Byte :=
  withFrameCheck ([code, f.format, f.flags, f.ns] ++ beBytes 2 f.tag.toNat ++ beBytes 2 f.bodyLength.toNat ++ f.body)

/-- A reception that R131 and R180 treat as a frame whose check fails. -/
def receptionIsBad : Reception → Bool
  | .whole bytes =>
    decide (bytes.length < Config.frameMin) || decide (Config.frameLimit ≤ bytes.length) || !frameCheckHolds bytes
  | .cut _ => true
  | .overlong => true

/-- The kind code and request frame of a whole frame's bytes, read by the header layout of R181. -/
def readFrame (bytes : List Byte) : Byte × RequestFrame :=
  let byte (i : Nat) : Byte := bytes.getD i 0#8
  (byte 0,
   { format := byte 1, flags := byte 2, ns := byte 3,
     tag := BitVec.ofNat 16 (beNat ((bytes.drop 4).take 2)),
     bodyLength := BitVec.ofNat 16 (beNat ((bytes.drop 6).take 2)),
     body := (bytes.drop 8).take (bytes.length - 12) })

end Sys2Proof.Machine
end

