-- ==== Sys2Proof/WellFormed.lean ====
section
/-! DEFINITION. Which commands are well formed. A meaning is total all the same: this check says what a sender that keeps to the manual's tables gives. -/

namespace Sys2Proof

/-- The frame crosses the link whole: header, body and check stay below 8,192 bytes (R180). -/
def RequestFrame.wf (f : RequestFrame) : Bool :=
  decide (8 + f.body.length + 4 < Config.frameLimit)

/-- A frame step carries a frame that crosses the link whole. -/
def RequestStep.wf : RequestStep → Bool
  | .whole f => f.wf
  | .arrive f => f.wf
  | .take _ => true

/-- A container request's frame crosses the link whole. -/
def ContainerStep.wf : ContainerStep → Bool
  | .request r => r.wf
  | .fix _ => true
  | .hand _ => true

/-- A SET_PARAMETER's frame crosses the link whole. -/
def ParameterStep.wf : ParameterStep → Bool
  | .request r => r.wf
  | .write _ => true
  | .own _ => true
  | .unit _ => true

/-- A walk is cut within its six steps (R175, R176). -/
def WalkPoint.wf (w : WalkPoint) : Bool :=
  decide (w.stage ≤ 6)

/-- No two module slots hold the module of one slot (R172). -/
def StartInputs.wf (i : StartInputs) : Bool :=
  decide (([i.stood.a0, i.stood.a1, i.stood.a2, i.stood.a3].filter Option.isSome).Nodup)

/-- The command is one that its row of the opcode table describes. -/
def Instr.wf : Instr → Bool
  | .powerOn i => i.wf
  | .recovery => true
  | .badFrame _ r => Machine.receptionIsBad r
  | .frameDiscardedListFull _ _ => true
  | .responseTransmitted _ => true
  | .identify _ r => r.wf
  | .portStatus _ r => r.wf
  | .indexStatus _ r => r.wf
  | .containerStatus _ r => r.wf
  | .findEmpty _ r => r.wf
  | .events _ r => r.wf
  | .setEventMask _ r => r.wf
  | .stats _ r => r.wf
  | .getParameter _ r => r.wf
  | .setParameter _ r => r.wf
  | .lookup _ f => f.wf
  | .probe _ f => f.wf
  | .ref _ f => f.wf
  | .release _ f => f.wf
  | .move _ f => f.wf
  | .readSlot _ f => f.wf
  | .drop _ f => f.wf
  | .restore _ f => f.wf
  | .lookupOperation _ _ => true
  | .probeOperation _ _ => true
  | .refOperation _ _ => true
  | .releaseOperation _ _ => true
  | .moveOperation _ _ => true
  | .readSlotOperation _ _ => true
  | .dropOperation _ _ => true
  | .restoreOperation _ _ => true
  | .commit _ r => r.wf
  | .commitEntryUpdate _ => true
  | .abandon _ r => r.wf
  | .freeingUpdate _ => true
  | .claimExpiry n => decide (n < Config.claimRecords)
  | .cancel _ r => r.wf
  | .openContainer _ r => r.wf
  | .closeContainer _ r => r.wf
  | .reclaim _ r => r.wf
  | .lookupBatch _ r => r.wf
  | .probeBatch _ r => r.wf
  | .releaseBatch _ r => r.wf
  | .batchItemOperation _ => true
  | .itemAnswer => true
  | .batchCancellation => true
  | .withdrawalRequest => true
  | .withdrawalAnswer => true
  | .sweeperBucketOperation _ => true
  | .millisecondTick _ => true
  | .loss _ => true
  | .persistenceMet _ => true
  | .firstSymbol _ => true
  | .admitPort _ r => r.wf
  | .evict _ r => r.wf
  | .ctuTeardown _ => true
  | .bteTeardown _ => true
  | .cluTeardown _ => true
  | .teardownCompletion => true
  | .setNamespace _ r => r.wf
  | .setPort _ r => r.wf
  | .snapshot _ r => r.wf
  | .intervalEnd => true
  | .indexClockAdvance => true
  | .clockSave => true
  | .format _ r => r.wf
  | .formatAfterOperation => true
  | .formatWalk => true
  | .restart _ r => r.wf
  | .restartReset i w => i.wf && w.wf
  | .silenceEnd => true
  | .powerLoss w => w.wf
  | .unknownKindCode _ code f => f.wf && (Machine.kindOfCode code).isNone

end Sys2Proof
end

