-- ==== Sys2Proof/Machine/State.lean ====
section
/-! DEFINITION. The state of the part: every record, list, count, flag and pin the manual gives it, index memory, and the queue of commands. -/

namespace Sys2Proof.Machine

/-! ## Enumerated values (R184) -/

/-- The states of an entry (R4). -/
inductive EntryState where
  | free | pending | stored | zero | pinned | suspect
  deriving DecidableEq, Repr

/-- The states of the index (R174). -/
inductive IndexState where
  | noMemory | unformatted | recovering | formatting | ready
  deriving DecidableEq, Repr

/-- The states of a port (R128). -/
inductive PortState where
  | down | fenced | online
  deriving DecidableEq, Repr

/-- The states of a container (R69). -/
inductive ContainerState where
  | free | opened | closed
  deriving DecidableEq, Repr

/-- The statuses of a module slot (R171). -/
inductive ModuleStatus where
  | counted | unfitted | invalid | ignored
  deriving DecidableEq, Repr

/-- The states of a namespace (R139). -/
inductive NsState where
  | disabled | active | readOnly
  deriving DecidableEq, Repr

/-- The edge modes of a level condition (R167). -/
inductive EdgeMode where
  | rise | both
  deriving DecidableEq, Repr

/-- The sweeper's modes (R95). -/
inductive SweepMode where
  | off | purge | scrub
  deriving DecidableEq, Repr

/-- The snapshot modes (R163). -/
inductive StatsMode where
  | interval | manual
  deriving DecidableEq, Repr

/-- The reasons of RETRY (R184). -/
inductive RetryReason where
  | claimsFull | waitersFull | noContext
  deriving DecidableEq, Repr

/-- The thirteen event kinds, in code order (R166, R184). -/
inductive EventKind where
  | peerLost | peerAdmitted | claimExpired | suspectFound | underflow | occupancyHigh | containersLow | snapshotReady
  | sweepDone | frameError | indexReady | counterSaturated | portFenced
  deriving DecidableEq, Repr

/-- The ten namespace counters (R160). -/
inductive NsCounter where
  | lookups | hits | hitBytes | claims | commits | commitBytes | releases | zeroed | purges | purgeBytes
  deriving DecidableEq, Repr

/-- The four port counters (R160). -/
inductive PortCounter where
  | framesIn | framesBad | queueFulls | expiredClaims
  deriving DecidableEq, Repr

/-- The blocks that own requests (R142). -/
inductive Block where
  | ixc | clu | ctu | bte | nst | pu (p : Port) | stu | mif
  deriving DecidableEq, Repr

/-! ## Index memory -/

/-- Where a chunk lies (R4). -/
structure Location where
  container : BitVec 16
  offset : BitVec 32
  length : BitVec 32
  deriving DecidableEq, Repr

/-- The 55 bytes of a slot, field by field (R183). The state field is kept as stored, listed code or not. -/
structure SlotImage where
  state : Byte
  fp : Fingerprint
  refcount : BitVec 16
  loc : Location
  ns : Byte
  claim : BitVec 16
  zeroSince : BitVec 40
  check : BitVec 16
  deriving DecidableEq, Repr

/-- A location of zero bytes. -/
def Location.zero : Location := { container := 0#16, offset := 0#32, length := 0#32 }

/-- A FREE slot is 55 zero bytes (R183). It is what a slot that index memory does not list reads as. -/
def SlotImage.free : SlotImage :=
  { state := 0#8, fp := 0#256, refcount := 0#16, loc := Location.zero, ns := 0#8, claim := 0#16, zeroSince := 0#40,
    check := 0#16 }

/-- The 17 bytes of the index header (R173). -/
structure Header where
  mark : BitVec 32
  capacity : BitVec 32
  startCount : BitVec 16
  clock : BitVec 40
  check : BitVec 16
  deriving DecidableEq, Repr

/-- The nine parameters' values (R178). -/
structure Params where
  claimWindowMs : Nat
  sweepMode : SweepMode
  sweepRate : Nat
  graceS : Nat
  statsMode : StatsMode
  statsIntervalS : Nat
  occupancyPct : Nat
  containersLowCount : Nat
  lossWindowMs : Nat
  deriving DecidableEq, Repr

/-- The defaults of R178. -/
def Params.defaults : Params :=
  { claimWindowMs := 500, sweepMode := .scrub, sweepRate := 8, graceS := 86400, statsMode := .interval,
    statsIntervalS := 60, occupancyPct := 90, containersLowCount := 256, lossWindowMs := 4 }

/-- One namespace record (R139). -/
structure NsRec where
  state : NsState
  hold : Bool
  deriving DecidableEq, Repr

/-- A namespace that is DISABLED with hold clear (R139). -/
def NsRec.zero : NsRec := { state := .disabled, hold := false }

/-- What the settings area keeps of one port (R173). -/
structure PortSetting where
  nsMap : BitVec 64
  autoAdmit : Bool
  deriving DecidableEq, Repr

/-- What the settings area holds before its check (R173). -/
structure Settings where
  params : Params
  namespaces : List (Nat × NsRec)
  ports : Four PortSetting
  deriving DecidableEq, Repr

/-- One container record (R69). -/
structure ContainerRec where
  state : ContainerState
  owner : Port
  fill : Nat
  live : Nat
  bytes : Nat
  deriving DecidableEq, Repr

/-- A FREE container (R69). -/
def ContainerRec.zero : ContainerRec := { state := .free, owner := .p0, fill := 0, live := 0, bytes := 0 }

/-- A reserved region: its three areas and their checks (R172, R173). -/
structure Reserved where
  header : Header
  settings : Settings
  settingsCheck : BitVec 32
  containers : List (Nat × ContainerRec)
  containersCheck : BitVec 32
  deriving DecidableEq, Repr

/-- Index memory: the slots of each module, and module 0's reserved region with its three areas and their checks
(R171 to R173). `slots` lists (place, image) pairs; module slot m spans the places from m times 2^26. `region1` to
`region3` are what the modules in slots 1 to 3 hold beyond their slots, which nothing reads or writes until such a module
stands in slot 0 (R172, R173, log 5). -/
structure IndexMemory where
  slots : List (Nat × SlotImage)
  header : Header
  settings : Settings
  settingsCheck : BitVec 32
  containers : List (Nat × ContainerRec)
  containersCheck : BitVec 32
  region1 : Reserved
  region2 : Reserved
  region3 : Reserved
  deriving DecidableEq, Repr

/-! ## Requests and responses -/

/-- A position names a slot: bucket number and slot index (R3). -/
structure Position where
  bucket : Nat
  index : Nat
  deriving DecidableEq, Repr

/-- A claim token (R45). -/
structure Token where
  startCount : BitVec 16
  claim : BitVec 16
  generation : BitVec 32
  deriving DecidableEq, Repr

/-- One batch item: its fingerprint, and its n in a RELEASE_BATCH (R109). -/
structure BatchItem where
  fp : Fingerprint
  n : Nat
  deriving DecidableEq, Repr

/-- The three batch kinds (R109). -/
inductive BatchKind where
  | lookup | probe | release
  deriving DecidableEq, Repr

/-- A whole batch as carried (R109). -/
structure BatchBody where
  kind : BatchKind
  wait : Bool
  checkWord : BitVec 32
  items : List BatchItem
  deriving DecidableEq, Repr

/-- The entry a RESTORE supplies (R106). -/
structure RestoreBody where
  pos : Position
  state : EntryState
  fp : Fingerprint
  refcount : BitVec 16
  loc : Location
  ns : Byte
  deriving DecidableEq, Repr

/-- A well-formed request with its operands (R181). `none` in an optional part is UNCHANGED; in SET_PORT's target it
is ALL. -/
inductive Request where
  | identify | portStatus | indexStatus
  | containerStatus (c : Nat)
  | findEmpty (start : Nat)
  | events
  | setEventMask (mask : BitVec 13) (occ low : Option EdgeMode)
  | stats
  | getParameter (q : Param)
  | setParameter (q : Param) (v : Nat)
  | lookup (fp : Fingerprint) (wait : Bool)
  | probe (fp : Fingerprint)
  | ref (fp : Fingerprint) (n : Nat)
  | release (fp : Fingerprint) (n : Nat)
  | move (fp : Fingerprint) (src dst : Nat) (offset length : Nat)
  | readSlot (pos : Position)
  | drop (pos : Position)
  | restore (r : RestoreBody)
  | commit (tok : Token) (fp : Fingerprint) (loc : Location)
  | abandon (tok : Token) (fp : Fingerprint)
  | cancel (target : Tag)
  | openContainer
  | closeContainer (c : Nat)
  | reclaim (c : Nat)
  | batch (b : BatchBody)
  | admitPort (target : Port)
  | evict (target : Port)
  | setNamespace (target : Nat) (state : Option NsState) (hold : Option Bool)
  | setPort (target : Option Port) (map : Option (BitVec 64)) (auto : Option Bool)
  | snapshot
  | format
  | restart
  deriving DecidableEq, Repr

/-- The outcomes of an index operation on one fingerprint, which batch items share, and the two outcomes that only
batch items take (R40, R115, R120). -/
inductive IndexOutcome where
  | duplicate (loc : Location) (pinned resurrected : Bool)
  | claimed (tok : Token) (handover : Nat)
  | released (refcount : BitVec 16)
  | probeHit (state : EntryState) (loc : Location)
  | probeMiss
  | inProgress (claim : BitVec 16)
  | withdrawn
  | notTaken
  | badFingerprint
  | noRoom
  | retry (r : RetryReason)
  | notFound
  | underflow
  | pinned
  | suspect
  deriving DecidableEq, Repr

/-- One counter with its saturated flag (R160). -/
structure Counter where
  value : Nat
  saturated : Bool
  deriving DecidableEq, Repr

/-- A counter of 0 with its flag clear (R160). -/
def Counter.zero : Counter := { value := 0, saturated := false }

/-- What IDENTIFY reports (R179). -/
structure Identity where
  startCount : BitVec 16
  modules : Four (Byte × ModuleStatus)
  capacity : Nat
  bucketCount : Nat
  recordedCapacity : Option (BitVec 32)
  settingsDefaulted : Bool
  containerRebuilt : Bool
  deriving DecidableEq, Repr

/-- What PORT_STATUS reports (R158). -/
structure PortReport where
  port : Port
  privilege : BitVec 2
  state : PortState
  states : Four PortState
  autoAdmit : Bool
  suppression : Bool
  persistenceMet : Bool
  teardownCtu : Bool
  teardownBte : Bool
  teardownClu : Bool
  nsMap : BitVec 64
  session : Session
  queued : Nat
  openCount : Nat
  events : BitVec 13
  deriving DecidableEq, Repr

/-- What INDEX_STATUS reports (R179). -/
structure IndexReport where
  state : IndexState
  occupancy : Nat
  capacity : Nat
  claimsInUse : Nat
  waitersInUse : Nat
  freeCount : Nat
  cursor : Nat
  passCount : BitVec 32
  clock : BitVec 40
  deriving DecidableEq, Repr

/-- The values of a DONE or CANCELLED response (R182). -/
inductive Values where
  | none
  | identity (r : Identity)
  | portReport (r : PortReport)
  | indexReport (r : IndexReport)
  | container (c : ContainerRec)
  | found (c : Option Nat)
  | opened (c : Nat)
  | eventSet (set : BitVec 13) (occupancyHigh containersLow : Bool)
  | eventMask (mask : BitVec 13) (occ low : EdgeMode)
  | stats (seq : BitVec 32) (ns : List Counter) (port : List Counter)
  | parameter (v : Nat)
  | slot (im : SlotImage) (check : Bool)
  | namespaceRec (r : NsRec)
  | portSetting (r : PortSetting)
  | sequence (seq : BitVec 32)
  deriving DecidableEq, Repr

/-- The outcome of a response, with the values it carries (R182, R184). -/
inductive Answer where
  | done (v : Values)
  | batchDone (cursor : Nat) (items : List IndexOutcome)
  | cancelled (cursor : Nat) (items : List IndexOutcome)
  | index (o : IndexOutcome)
  | committed
  | queueFull | tagInUse | fenced | malformed | denied
  | notReady (st : IndexState)
  | readOnly | held
  | late | mismatch | notOwner | overlap | containerFull | openLimit | noContainer | notEmpty | wrongState
  | wrongLocation | lengthMismatch | checkFail | tooLate
  deriving DecidableEq, Repr

/-- One response: the kind code as received, the tag and the outcome (R182). -/
structure Response where
  kind : Byte
  tag : Tag
  answer : Answer
  deriving DecidableEq, Repr

/-- What a port's transmitter puts on its link: nothing, idle symbols, or a response frame (R143, R147, R177). -/
inductive Transmission where
  | silent
  | idle
  | response (r : Response)
  deriving DecidableEq, Repr

/-- The phases of a queued request (R129). -/
inductive Phase where
  | waiting | atBlock | parked
  deriving DecidableEq, Repr

/-- One entry of a request queue (R129), with the session mark of R153. `taken` says whether the owning block has taken
the request (R142, R151). -/
structure QEntry where
  tag : Tag
  kind : Kind
  ns : Nat
  request : Request
  phase : Phase
  context : Option Nat
  mark : Session
  taken : Bool
  deriving DecidableEq, Repr

/-! ## Port units -/

/-- One port unit (R128, R129, R143, R145, R166 to R170). `judged` says that it has taken the tick that ends the present
millisecond in an event of its own, LOSS or PERSISTENCE_MET, ahead of the tick's command (log 11). -/
structure PortUnit where
  state : PortState
  privilege : BitVec 2
  nsMap : BitVec 64
  autoAdmit : Bool
  queue : List QEntry
  responses : List Response
  finishing : Option Response
  events : BitVec 13
  mask : BitVec 13
  occEdge : EdgeMode
  lowEdge : EdgeMode
  occSignalled : Bool
  lowSignalled : Bool
  attn : Bool
  quiet : Nat
  persistence : Nat
  persistenceMet : Bool
  suppression : Bool
  teardownCtu : Bool
  teardownBte : Bool
  teardownClu : Bool
  session : Session
  symbolSeen : Bool
  judged : Bool
  deriving DecidableEq, Repr

/-- A port unit after power-on or RESTART, its privilege read from the straps (R128, R129, R143, R145, R166, R167, R169,
R170). -/
def PortUnit.reset (privilege : BitVec 2) : PortUnit :=
  { state := .down, privilege := privilege, nsMap := 0#64, autoAdmit := false, queue := [], responses := [],
    finishing := none, events := 0#13, mask := 0x1FFF#13, occEdge := .rise, lowEdge := .rise, occSignalled := false,
    lowSignalled := false, attn := false, quiet := 0, persistence := 0, persistenceMet := false, suppression := false,
    teardownCtu := false, teardownBte := false, teardownClu := false, session := 0#16, symbolSeen := false,
    judged := false }

/-! ## Claim unit -/

/-- What a waiter or claimant stands for: a single request with its tag and session mark, or a batch item (R43, R48). -/
inductive Origin where
  | single (tag : Tag) (mark : Session)
  | item (ctx : Nat) (idx : Nat)
  deriving DecidableEq, Repr

/-- A waiter record in use (R48); a claimant has the same three fields (R43). -/
structure Waiter where
  port : Port
  ns : Nat
  origin : Origin
  deriving DecidableEq, Repr

/-- The phases of a claim record (R43). -/
inductive ClaimPhase where
  | free | held | settling | closing
  deriving DecidableEq, Repr

/-- The commit details of a claim in SETTLING, with the COMMIT's tag and session mark (R43, R56, R153). -/
structure CommitDetails where
  loc : Location
  tag : Tag
  mark : Session
  deriving DecidableEq, Repr

/-- One claim record (R43). `position` is the slot number of the PENDING entry. -/
structure ClaimRec where
  phase : ClaimPhase
  generation : BitVec 32
  position : Nat
  fp : Fingerprint
  claimant : Option Waiter
  deadline : Nat
  handover : Nat
  details : Option CommitDetails
  waiters : List Waiter
  deriving DecidableEq, Repr

/-- A claim record after power-on or RESTART (R43). -/
def ClaimRec.zero : ClaimRec :=
  { phase := .free, generation := 0#32, position := 0, fp := 0#256, claimant := none, deadline := 0, handover := 0,
    details := none, waiters := [] }

/-- An update that the claim unit has queued for its turn at the arbiter (R52, R56). -/
inductive Update where
  | entry (n : Nat)
  | freeing (n : Nat)
  deriving DecidableEq, Repr

/-! ## Batch engine -/

/-- The phases of a batch item (R110). -/
inductive ItemPhase where
  | untaken
  | parked
  | answered (o : IndexOutcome)
  deriving DecidableEq, Repr

/-- The states of a batch context; a WITHHELD context is freed by the completion of one port's teardown (R110, R125). -/
inductive CtxPhase where
  | free
  | withheld (departed : Port)
  | running | awaiting | finished
  deriving DecidableEq, Repr

/-- One batch context (R110). -/
structure Context where
  phase : CtxPhase
  port : Port
  tag : Tag
  mark : Session
  kind : BatchKind
  ns : Nat
  wait : Bool
  items : List BatchItem
  cursor : Nat
  outcomes : List ItemPhase
  parked : Nat
  cancelled : Bool
  withdrawal : Bool
  deriving DecidableEq, Repr

/-- A FREE context (R110). -/
def Context.zero : Context :=
  { phase := .free, port := .p0, tag := 0#16, mark := 0#16, kind := .lookup, ns := 0, wait := false, items := [],
    cursor := 0, outcomes := [], parked := 0, cancelled := false, withdrawal := false }

/-- What the claim unit sends the batch engine on its one path (R111). -/
inductive BteMessage where
  | itemAnswer (ctx : Nat) (idx : Nat) (port : Port) (o : IndexOutcome)
  | withdrawalAnswer (ctx : Nat) (port : Port) (idxs : List Nat)
  | teardownCompletion (port : Port)
  | cancellation (port : Port) (target : Tag) (tag : Tag) (mark : Session)
  deriving DecidableEq, Repr

/-! ## Arbiter -/

/-- The seven requesters of the arbiter (R18). -/
inductive Requester where
  | pu (p : Port)
  | bte | clu | swp
  deriving DecidableEq, Repr

/-- The operation in progress, with what its requester held when the turn was granted (R20, R97, R98). -/
inductive Turn where
  | port (p : Port) (e : QEntry)
  | item (ctx : Nat)
  | entryUpdate (n : Nat)
  | freeing (n : Nat)
  | sweep (mode : SweepMode) (grace : Nat) (now : BitVec 40)
  deriving DecidableEq, Repr

/-! ## The blocks -/

/-- The index controller and its arbiter (R11, R12, R19). -/
structure Ixc where
  occupancy : Nat
  occupancyHigh : Bool
  lastServed : Requester
  inProgress : Option Turn
  deriving DecidableEq, Repr

/-- The claim unit (R43, R48). The waiter records in use are those on the claims' lists. -/
structure Clu where
  claims : List (Nat × ClaimRec)
  updates : List Update
  withdrawals : List (Nat × Port)
  deriving DecidableEq, Repr

/-- An outcome that the container unit has fixed and not yet handed to the port unit, with the mark that it carries (R88,
R153). -/
structure CtuOutcome where
  port : Port
  kind : Kind
  tag : Tag
  mark : Session
  answer : Answer
  deriving DecidableEq, Repr

/-- The container unit (R71, R72, R86). Its table is kept in the container-table area (R69). -/
structure Ctu where
  freeList : List Nat
  openCount : Four Nat
  containersLow : Bool
  outcomes : List CtuOutcome
  deriving DecidableEq, Repr

/-- The batch engine (R110, R111, R114). -/
structure Bte where
  contexts : List (Nat × Context)
  held : Option Nat
  rotation : Nat
  inbox : List BteMessage
  deriving DecidableEq, Repr

/-- The sweeper's own values (R95). -/
structure Swp where
  cursor : Nat
  passCount : BitVec 32
  allowance : Nat
  deriving DecidableEq, Repr

/-- The time base (R47, R92). -/
structure Tmb where
  ms : Nat
  clock : BitVec 40
  clockLoaded : Bool
  secondMs : Nat
  deriving DecidableEq, Repr

/-- The statistics unit (R160 to R163). Counters are numbered: ten for each namespace, then four for each port. -/
structure Stu where
  live : List (Nat × Counter)
  snap : List (Nat × Counter)
  notice : Bool
  sequence : BitVec 32
  timer : Option Nat
  deriving DecidableEq, Repr

/-- A FORMAT being walked: whom it answers, and the start count it will write (R176). -/
structure FormatJob where
  port : Port
  tag : Tag
  mark : Session
  startCount : BitVec 16
  deriving DecidableEq, Repr

/-- A change of parameter that the memory interface has written and handed to the owner, and that the owner has not wholly
taken, with the request it answers. `units` says which port units have taken it, for LOSS_WINDOW_MS alone, which each of
them owns (R153, R178). -/
structure ParamChange where
  port : Port
  tag : Tag
  mark : Session
  param : Param
  value : Nat
  units : Four Bool
  deriving DecidableEq, Repr

/-- The memory interface (R171, R174 to R179). `changes` are the changes of parameters handed over, in the order in which
the settings area was written (R178). -/
structure Mif where
  indexState : IndexState
  descriptors : Four Descriptor
  startCount : BitVec 16
  settingsDefaulted : Bool
  containerRebuilt : Bool
  formatWaits : Option (Port × Tag)
  formatJob : Option FormatJob
  changes : List ParamChange
  restartTaken : Bool
  silenced : Bool
  silenceMs : Nat
  deriving DecidableEq, Repr

end Sys2Proof.Machine

namespace Sys2Proof.Machine

/-- The part. `linkOut` is the frame each transmitter last finished: the model's own view of the links. -/
structure State where
  pending : List Instr
  powered : Bool
  ports : Four PortUnit
  ixc : Ixc
  clu : Clu
  ctu : Ctu
  bte : Bte
  swp : Swp
  tmb : Tmb
  nst : List (Nat × NsRec)
  stu : Stu
  mif : Mif
  params : Params
  mem : IndexMemory
  linkOut : Four (List Byte)
  deriving DecidableEq, Repr

/-- Nothing stops the part: no command ends in a fault, so there is no fault reason. -/
inductive Fault where
  deriving DecidableEq, Repr

/-- The refusals of a step. -/
inductive Refusal where
  /-- Raised only by an arm of exec whose command has no meaning yet: safe, since the step gives no next state. -/
  | notModelled (mnemonic : String)
  deriving DecidableEq, Repr

/-- A reserved region that nothing has written: all bytes zero, DESIGN CHOICE (log 6). Its header has no format mark. -/
def Reserved.blank : Reserved :=
  { header := { mark := 0#32, capacity := 0#32, startCount := 0#16, clock := 0#40, check := 0#16 },
    settings :=
      { params :=
          { claimWindowMs := 0, sweepMode := .off, sweepRate := 0, graceS := 0, statsMode := .interval,
            statsIntervalS := 0, occupancyPct := 0, containersLowCount := 0, lossWindowMs := 0 },
        namespaces := [],
        ports := ⟨⟨0#64, false⟩, ⟨0#64, false⟩, ⟨0#64, false⟩, ⟨0#64, false⟩⟩ },
    settingsCheck := 0#32, containers := [], containersCheck := 0#32 }

/-- Index memory from its slots and the modules' reserved regions, module 0's first. -/
def IndexMemory.ofSlots (slots : List (Nat × SlotImage)) (r0 r1 r2 r3 : Reserved) : IndexMemory :=
  { slots := slots, header := r0.header, settings := r0.settings, settingsCheck := r0.settingsCheck,
    containers := r0.containers, containersCheck := r0.containersCheck, region1 := r1, region2 := r2, region3 := r3 }

/-- Index memory that nothing has written: all bytes zero. DESIGN CHOICE: the manual gives power-on contents none (log 6). -/
def IndexMemory.blank : IndexMemory :=
  IndexMemory.ofSlots [] Reserved.blank Reserved.blank Reserved.blank Reserved.blank

/-- A part after power-on or RESTART, before a recovery or FORMAT, in the index state given (R11, R19, R43, R48, R71, R72,
R86, R92, R95, R110, R128, R139, R160 to R163, R178, R179). Index memory and the command queue are kept. The start count
reported is 0 until recovery or FORMAT writes one, in RECOVERING and FORMATTING too: DESIGN CHOICE (log 46). -/
def State.afterReset (pending : List Instr) (linkOut : Four (List Byte)) (mem : IndexMemory) (inputs : StartInputs)
    (indexState : IndexState) : State :=
  { pending := pending, powered := true,
    ports := ⟨PortUnit.reset inputs.straps.a0, PortUnit.reset inputs.straps.a1, PortUnit.reset inputs.straps.a2,
      PortUnit.reset inputs.straps.a3⟩,
    ixc := { occupancy := 0, occupancyHigh := false, lastServed := .swp, inProgress := none },
    clu := { claims := [], updates := [], withdrawals := [] },
    ctu := { freeList := [], openCount := ⟨0, 0, 0, 0⟩, containersLow := false, outcomes := [] },
    bte := { contexts := [], held := none, rotation := 0, inbox := [] },
    swp := { cursor := 0, passCount := 0#32, allowance := 0 },
    tmb := { ms := 0, clock := 0#40, clockLoaded := false, secondMs := 0 },
    nst := [],
    stu := { live := [], snap := [], notice := false, sequence := 0#32, timer := none },
    mif :=
      { indexState := indexState, descriptors := inputs.descriptors, startCount := 0#16, settingsDefaulted := false,
        containerRebuilt := false, formatWaits := none, formatJob := none, changes := [], restartTaken := false,
        silenced := false, silenceMs := 0 },
    params := Params.defaults, mem := mem, linkOut := linkOut }

/-- Straps at level 0 and four unfitted modules. DESIGN CHOICE (log 4). -/
def unfittedInputs : StartInputs :=
  { straps := ⟨0#2, 0#2, 0#2, 0#2⟩,
    descriptors := ⟨⟨0x00#8, 0xFF#8⟩, ⟨0x00#8, 0xFF#8⟩, ⟨0x00#8, 0xFF#8⟩, ⟨0x00#8, 0xFF#8⟩⟩,
    stood := StartInputs.unmoved }

/-- The part right after power-on with no module fitted and nothing commanded: the index is in NO_MEMORY (R171, R174).
POWER_ON with other straps and descriptors starts it with those (log 4). -/
def State.reset : State :=
  State.afterReset [] ⟨[], [], [], []⟩ IndexMemory.blank unfittedInputs .noMemory

end Sys2Proof.Machine
end

