-- ==== Sys2Proof/Machine/Tables.lean ====
section
/-! DEFINITION. The two shapes that hold many like records: four of them by port or module slot, and tables of (number, record) pairs in one canonical form. -/

namespace Sys2Proof.Machine

/-- The ports in number order. -/
def allPorts : List Port := [.p0, .p1, .p2, .p3]

/-- A port's number. -/
def portNumber : Port → Nat
  | .p0 => 0 | .p1 => 1 | .p2 => 2 | .p3 => 3

/-- The port with a number from 0 to 3. -/
def portOfNumber : Nat → Option Port
  | 0 => some .p0 | 1 => some .p1 | 2 => some .p2 | 3 => some .p3
  | _ => none

/-- The value for one of four. -/
def fourGet {α : Type} (f : Four α) : Port → α
  | .p0 => f.a0 | .p1 => f.a1 | .p2 => f.a2 | .p3 => f.a3

/-- The four with one value replaced. -/
def fourSet {α : Type} (f : Four α) (p : Port) (v : α) : Four α :=
  match p with
  | .p0 => { f with a0 := v }
  | .p1 => { f with a1 := v }
  | .p2 => { f with a2 := v }
  | .p3 => { f with a3 := v }

/-- Four values, each from its port. -/
def fourOf {α : Type} (g : Port → α) : Four α := ⟨g .p0, g .p1, g .p2, g .p3⟩

/-- The four values in number order. -/
def fourList {α : Type} (f : Four α) : List α := [f.a0, f.a1, f.a2, f.a3]

/-- The record a table lists under a number, or the record that an unlisted number reads as. -/
def tableGet {α : Type} (d : α) : List (Nat × α) → Nat → α
  | [], _ => d
  | (j, v) :: rest, k => if j = k then v else tableGet d rest k

/-- The table without any pair under the number. -/
def tableErase {α : Type} (t : List (Nat × α)) (k : Nat) : List (Nat × α) :=
  t.filter (fun e => decide (e.1 ≠ k))

/-- The table with a pair put in before the first larger number. -/
def tableInsert {α : Type} (k : Nat) (v : α) : List (Nat × α) → List (Nat × α)
  | [] => [(k, v)]
  | (j, w) :: rest => if k < j then (k, v) :: (j, w) :: rest else (j, w) :: tableInsert k v rest

/-- The table with the record under a number replaced. Writing the record that an unlisted number reads as removes the
pair, so equal contents are equal lists. -/
def tableSet {α : Type} [DecidableEq α] (d : α) (t : List (Nat × α)) (k : Nat) (v : α) : List (Nat × α) :=
  if v = d then tableErase t k else tableInsert k v (tableErase t k)

/-- The table with every listed record passed through a function that keeps the unlisted record. -/
def tableMap {α : Type} [DecidableEq α] (d : α) (g : Nat → α → α) (t : List (Nat × α)) : List (Nat × α) :=
  t.filterMap (fun e => if g e.1 e.2 = d then none else some (e.1, g e.1 e.2))

/-- The canonical form: numbers strictly rising, and no pair holds the record that an unlisted number reads as. -/
def tableWf {α : Type} [DecidableEq α] (d : α) : List (Nat × α) → Bool
  | [] => true
  | (k, v) :: rest =>
    decide (v ≠ d) && (match rest with | [] => true | (j, _) :: _ => decide (k < j)) && tableWf d rest

end Sys2Proof.Machine
end

