-- ==== Sys2Proof/Machine/Operands.lean ====
section
/-! DEFINITION. The operand forms: entry images and their check codes, the codes of enumerated fields, the bodies of request frames read and written, and which kinds need what. -/

namespace Sys2Proof.Machine

/-! ## Enumerated codes (R184) -/

/-- Entry state codes. -/
def entryCode : EntryState → Byte
  | .free => 0x00#8 | .pending => 0x01#8 | .stored => 0x02#8 | .zero => 0x03#8 | .pinned => 0x04#8 | .suspect => 0x05#8

/-- The entry state a code names; none for a code that is none of the six. -/
def entryOfCode (b : Byte) : Option EntryState :=
  [EntryState.free, .pending, .stored, .zero, .pinned, .suspect].find? (fun s => entryCode s == b)

/-- Index state codes. -/
def indexStateCode : IndexState → Byte
  | .noMemory => 0#8 | .unformatted => 1#8 | .recovering => 2#8 | .formatting => 3#8 | .ready => 4#8

/-- Port state codes. -/
def portStateCode : PortState → Byte
  | .down => 0#8 | .fenced => 1#8 | .online => 2#8

/-- Container state codes. -/
def containerStateCode : ContainerState → Byte
  | .free => 0#8 | .opened => 1#8 | .closed => 2#8

/-- Module slot status codes. -/
def moduleStatusCode : ModuleStatus → Byte
  | .counted => 0#8 | .unfitted => 1#8 | .invalid => 2#8 | .ignored => 3#8

/-- RETRY reason codes. -/
def retryCode : RetryReason → Byte
  | .claimsFull => 1#8 | .waitersFull => 2#8 | .noContext => 3#8

/-- Namespace state codes. -/
def nsStateCode : NsState → Byte
  | .disabled => 0#8 | .active => 1#8 | .readOnly => 2#8

/-- The codes of a flag: hold, auto-admit, and every flag of a response. -/
def flagCode (b : Bool) : Byte := if b then 1#8 else 0#8

/-- Edge mode codes. -/
def edgeCode : EdgeMode → Byte
  | .rise => 0#8 | .both => 1#8

/-- Sweep mode codes. -/
def sweepCode : SweepMode → Nat
  | .off => 0 | .purge => 1 | .scrub => 2

/-- Snapshot mode codes. -/
def statsCode : StatsMode → Nat
  | .interval => 0 | .manual => 1

/-- Parameter codes. -/
def paramCode : Param → Byte
  | .claimWindowMs => 1#8 | .sweepMode => 2#8 | .sweepRate => 3#8 | .graceS => 4#8 | .statsMode => 5#8
  | .statsIntervalS => 6#8 | .occupancyPct => 7#8 | .containersLowCount => 8#8 | .lossWindowMs => 9#8

/-- Every parameter, in code order. -/
def allParams : List Param :=
  [.claimWindowMs, .sweepMode, .sweepRate, .graceS, .statsMode, .statsIntervalS, .occupancyPct, .containersLowCount,
   .lossWindowMs]

/-- Event codes: the bit of each kind in event sets and masks. -/
def eventCode : EventKind → Nat
  | .peerLost => 0 | .peerAdmitted => 1 | .claimExpired => 2 | .suspectFound => 3 | .underflow => 4
  | .occupancyHigh => 5 | .containersLow => 6 | .snapshotReady => 7 | .sweepDone => 8 | .frameError => 9
  | .indexReady => 10 | .counterSaturated => 11 | .portFenced => 12

/-! ## Parameters (R178) -/

/-- The value of a parameter, enumerated ones as their codes. -/
def paramValue (v : Params) : Param → Nat
  | .claimWindowMs => v.claimWindowMs
  | .sweepMode => sweepCode v.sweepMode
  | .sweepRate => v.sweepRate
  | .graceS => v.graceS
  | .statsMode => statsCode v.statsMode
  | .statsIntervalS => v.statsIntervalS
  | .occupancyPct => v.occupancyPct
  | .containersLowCount => v.containersLowCount
  | .lossWindowMs => v.lossWindowMs

/-- The sweep mode of a code in its range. -/
def sweepOfCode : Nat → SweepMode
  | 0 => .off
  | 1 => .purge
  | _ => .scrub

/-- The snapshot mode of a code in its range. -/
def statsOfCode : Nat → StatsMode
  | 0 => .interval
  | _ => .manual

/-- The parameters with one value replaced. -/
def paramSet (v : Params) (q : Param) (n : Nat) : Params :=
  match q with
  | .claimWindowMs => { v with claimWindowMs := n }
  | .sweepMode => { v with sweepMode := sweepOfCode n }
  | .sweepRate => { v with sweepRate := n }
  | .graceS => { v with graceS := n }
  | .statsMode => { v with statsMode := statsOfCode n }
  | .statsIntervalS => { v with statsIntervalS := n }
  | .occupancyPct => { v with occupancyPct := n }
  | .containersLowCount => { v with containersLowCount := n }
  | .lossWindowMs => { v with lossWindowMs := n }

/-- The least and greatest value of a parameter. -/
def paramRange : Param → Nat × Nat
  | .claimWindowMs => (10, 10000)
  | .sweepMode => (0, 2)
  | .sweepRate => (1, 64)
  | .graceS => (0, 1048575)
  | .statsMode => (0, 1)
  | .statsIntervalS => (1, 3600)
  | .occupancyPct => (50, 99)
  | .containersLowCount => (0, 65535)
  | .lossWindowMs => (1, 15)

/-- The value is in the parameter's range. -/
def paramInRange (q : Param) (n : Nat) : Bool :=
  decide ((paramRange q).1 ≤ n) && decide (n ≤ (paramRange q).2)

/-! ## Entry images (R4, R6, R13, R183) -/

/-- A location's ten bytes (R181). -/
def locationBytes (l : Location) : List Byte :=
  beBytes 2 l.container.toNat ++ beBytes 4 l.offset.toNat ++ beBytes 4 l.length.toNat

/-- Bytes 0 to 52 of the image: everything before the check code (R183). -/
def imageBody (im : SlotImage) : List Byte :=
  [im.state] ++ beBytes 32 im.fp.toNat ++ beBytes 2 im.refcount.toNat ++ locationBytes im.loc ++ [im.ns] ++
    beBytes 2 im.claim.toNat ++ beBytes 5 im.zeroSince.toNat

/-- The 55 bytes of the image (R183). -/
def imageBytes (im : SlotImage) : List Byte :=
  imageBody im ++ beBytes 2 im.check.toNat

/-- The check code over the image's other fields (R6). -/
@[irreducible] def imageCheck (im : SlotImage) : BitVec 16 := crc16 (imageBody im)

/-- The image with a fresh check code (R6). -/
def imageFresh (im : SlotImage) : SlotImage := { im with check := imageCheck im }

/-- The state the image's state field names, if it is one of the six codes. -/
def imageState (im : SlotImage) : Option EntryState := entryOfCode im.state

/-- The verification of R13, and READ_SLOT's check flag of R104: a FREE slot holds when every field is zero, a slot of
another listed state when its stored code is the one computed, and a slot of no listed state never. -/
def imageHolds (im : SlotImage) : Bool :=
  match imageState im with
  | none => false
  | some .free => decide (im = SlotImage.free)
  | some _ => decide (im.check = imageCheck im)

/-- A PENDING entry of a claim (R9, R15): absent fields zero, a fresh check code. -/
def imagePending (fp : Fingerprint) (claim : Nat) : SlotImage :=
  imageFresh { SlotImage.free with state := entryCode .pending, fp := fp, claim := BitVec.ofNat 16 claim }

/-- A counted entry: STORED, ZERO or PINNED, claim number zero, a fresh check code (R4, R58, R107). -/
def imageCounted (st : EntryState) (fp : Fingerprint) (refcount : BitVec 16) (loc : Location) (ns : Byte)
    (zeroSince : BitVec 40) : SlotImage :=
  imageFresh
    { state := entryCode st, fp := fp, refcount := refcount, loc := loc, ns := ns, claim := 0#16,
      zeroSince := zeroSince, check := 0#16 }

/-- The image marked SUSPECT: its state changes, every other field and the stored check code stay as read (R6, R14). -/
def imageSuspect (im : SlotImage) : SlotImage := { im with state := entryCode .suspect }

/-! ## Reading request bodies (R181) -/

/-- A number of `n` bytes at the front, and the bytes behind it. -/
def takeNum (n : Nat) (bytes : List Byte) : Option (Nat × List Byte) :=
  if n ≤ bytes.length then some (beNat (bytes.take n), bytes.drop n) else none

/-- The value, where nothing is left behind it: the body has exactly its kind's length. -/
def atEnd {α : Type} (rest : List Byte) (v : α) : Option α :=
  match rest with
  | [] => some v
  | _ :: _ => none

/-- The value, where a test passes. -/
def guarded {α : Type} (b : Bool) (v : Option α) : Option α := if b then v else none

/-- A fingerprint at the front. -/
def takeFp (bytes : List Byte) : Option (Fingerprint × List Byte) :=
  (takeNum 32 bytes).map (fun r => (BitVec.ofNat 256 r.1, r.2))

/-- A location at the front. -/
def takeLocation (bytes : List Byte) : Option (Location × List Byte) :=
  (takeNum 2 bytes).bind fun c =>
  (takeNum 4 c.2).bind fun o =>
  (takeNum 4 o.2).map fun l =>
    ({ container := BitVec.ofNat 16 c.1, offset := BitVec.ofNat 32 o.1, length := BitVec.ofNat 32 l.1 }, l.2)

/-- A token at the front. -/
def takeToken (bytes : List Byte) : Option (Token × List Byte) :=
  (takeNum 2 bytes).bind fun s =>
  (takeNum 2 s.2).bind fun c =>
  (takeNum 4 c.2).map fun g =>
    ({ startCount := BitVec.ofNat 16 s.1, claim := BitVec.ofNat 16 c.1, generation := BitVec.ofNat 32 g.1 }, g.2)

/-- A position at the front; its slot index is 0 to 7 (R10, R134). -/
def takePosition (bytes : List Byte) : Option (Position × List Byte) :=
  (takeNum 4 bytes).bind fun b =>
  (takeNum 1 b.2).bind fun i =>
    guarded (decide (i.1 ≤ 7)) (some ({ bucket := b.1, index := i.1 }, i.2))

/-- A chunk's placement is in range: length 1 to 65,536, offset at most 67,108,863 (R56, R81, R106). -/
def placementInRange (offset length : Nat) : Bool :=
  decide (1 ≤ length) && decide (length ≤ 65536) && decide (offset ≤ 67108863)

/-- The items of a batch: `count` of them, exactly. -/
def takeItems (withN : Bool) : Nat → List Byte → Option (List BatchItem)
  | 0, rest => atEnd rest []
  | count + 1, rest =>
    (takeFp rest).bind fun f =>
    if withN then
      (takeNum 1 f.2).bind fun n =>
      guarded (decide (1 ≤ n.1)) ((takeItems withN count n.2).map fun items => { fp := f.1, n := n.1 } :: items)
    else (takeItems withN count f.2).map fun items => { fp := f.1, n := 0 } :: items

/-- A batch body: check word, item count 1 to 128, items (R109, R181). -/
def readBatch (kind : BatchKind) (wait : Bool) (body : List Byte) : Option Request :=
  (takeNum 4 body).bind fun w =>
  (takeNum 1 w.2).bind fun c =>
  guarded (decide (1 ≤ c.1) && decide (c.1 ≤ 128))
    ((takeItems (decide (kind = .release)) c.1 c.2).map fun items =>
      .batch { kind := kind, wait := wait, checkWord := BitVec.ofNat 32 w.1, items := items })

/-- An edge mode or UNCHANGED. -/
def edgeOfCode : Nat → Option (Option EdgeMode)
  | 0 => some (some .rise)
  | 1 => some (some .both)
  | 255 => some none
  | _ => none

/-- A flag or UNCHANGED: hold and auto-admit. -/
def flagOfCode : Nat → Option (Option Bool)
  | 0 => some (some false)
  | 1 => some (some true)
  | 255 => some none
  | _ => none

/-- A namespace state or UNCHANGED. -/
def nsStateOfCode : Nat → Option (Option NsState)
  | 0 => some (some .disabled)
  | 1 => some (some .active)
  | 2 => some (some .readOnly)
  | 255 => some none
  | _ => none

/-- A parameter code. -/
def paramOfCode (n : Nat) : Option Param :=
  allParams.find? (fun q => decide ((paramCode q).toNat = n))

/-- SET_PORT's target: a port, or ALL. -/
def targetOfCode (n : Nat) : Option (Option Port) :=
  if n = 255 then some none else (portOfNumber n).map some

/-- The eight map bytes as a set: namespace k is bit k mod 8 of byte k div 8, bit 0 the least significant (R181). -/
def mapOfBytes (bytes : List Byte) : BitVec 64 :=
  BitVec.ofNat 64 (beNat bytes.reverse)

/-- The eight bytes of a map (R181). -/
def mapBytes (m : BitVec 64) : List Byte := (beBytes 8 m.toNat).reverse

/-- The eight map bytes at the front. -/
def takeMap (bytes : List Byte) : Option (BitVec 64 × List Byte) :=
  if 8 ≤ bytes.length then some (mapOfBytes (bytes.take 8), bytes.drop 8) else none

/-- The state and refcount that a RESTORE may supply (R106). -/
def restoreState (code refcount : Nat) : Option EntryState :=
  if code = 2 ∧ 1 ≤ refcount ∧ refcount < Config.refcountMax then some .stored
  else if code = 4 ∧ refcount = Config.refcountMax then some .pinned
  else none

/-- A RESTORE's body (R106, R181). -/
def readRestore (body : List Byte) : Option Request :=
  (takePosition body).bind fun pos =>
  (takeNum 1 pos.2).bind fun st =>
  (takeFp st.2).bind fun f =>
  (takeNum 2 f.2).bind fun rc =>
  (takeLocation rc.2).bind fun l =>
  (takeNum 1 l.2).bind fun ns =>
  (restoreState st.1 rc.1).bind fun state =>
  guarded (placementInRange l.1.offset.toNat l.1.length.toNat && decide (ns.1 ≤ 63))
    (atEnd ns.2
      (.restore
        { pos := pos.1, state := state, fp := f.1, refcount := BitVec.ofNat 16 rc.1, loc := l.1,
          ns := BitVec.ofNat 8 ns.1 }))

/-- A SET_PORT's body (R141, R181): with map given 0 the eight map bytes are sent and not read. -/
def readSetPort (body : List Byte) : Option Request :=
  (takeNum 1 body).bind fun t =>
  (takeNum 1 t.2).bind fun g =>
  (takeMap g.2).bind fun m =>
  (takeNum 1 m.2).bind fun a =>
  (targetOfCode t.1).bind fun target =>
  (flagOfCode a.1).bind fun auto =>
  guarded (decide (g.1 ≤ 1))
    (atEnd a.2 (.setPort target (if g.1 = 1 then some m.1 else none) auto))

/-- A MOVE's body (R83, R181). -/
def readMove (body : List Byte) : Option Request :=
  (takeFp body).bind fun f =>
  (takeNum 2 f.2).bind fun src =>
  (takeNum 2 src.2).bind fun dst =>
  (takeNum 4 dst.2).bind fun off =>
  (takeNum 4 off.2).bind fun len =>
  guarded (placementInRange off.1 len.1) (atEnd len.2 (.move f.1 src.1 dst.1 off.1 len.1))

/-- The request a body of the kind carries; none where its length or a field is out of range (R134, R181). -/
def readBody (k : Kind) (wait : Bool) (body : List Byte) : Option Request :=
  match k with
  | .identify => atEnd body .identify
  | .portStatus => atEnd body .portStatus
  | .indexStatus => atEnd body .indexStatus
  | .events => atEnd body .events
  | .stats => atEnd body .stats
  | .openContainer => atEnd body .openContainer
  | .snapshot => atEnd body .snapshot
  | .format => atEnd body .format
  | .restart => atEnd body .restart
  | .lookup => (takeFp body).bind fun f => atEnd f.2 (.lookup f.1 wait)
  | .probe => (takeFp body).bind fun f => atEnd f.2 (.probe f.1)
  | .ref =>
    (takeFp body).bind fun f =>
    (takeNum 1 f.2).bind fun n => guarded (decide (1 ≤ n.1)) (atEnd n.2 (.ref f.1 n.1))
  | .release =>
    (takeFp body).bind fun f =>
    (takeNum 1 f.2).bind fun n => guarded (decide (1 ≤ n.1)) (atEnd n.2 (.release f.1 n.1))
  | .commit =>
    (takeToken body).bind fun t =>
    (takeFp t.2).bind fun f =>
    (takeLocation f.2).bind fun l =>
    guarded (placementInRange l.1.offset.toNat l.1.length.toNat) (atEnd l.2 (.commit t.1 f.1 l.1))
  | .abandon =>
    (takeToken body).bind fun t =>
    (takeFp t.2).bind fun f => atEnd f.2 (.abandon t.1 f.1)
  | .move => readMove body
  | .closeContainer => (takeNum 2 body).bind fun c => atEnd c.2 (.closeContainer c.1)
  | .reclaim => (takeNum 2 body).bind fun c => atEnd c.2 (.reclaim c.1)
  | .containerStatus => (takeNum 2 body).bind fun c => atEnd c.2 (.containerStatus c.1)
  | .findEmpty => (takeNum 2 body).bind fun c => atEnd c.2 (.findEmpty c.1)
  | .cancel => (takeNum 2 body).bind fun t => atEnd t.2 (.cancel (BitVec.ofNat 16 t.1))
  | .lookupBatch => readBatch .lookup wait body
  | .probeBatch => readBatch .probe wait body
  | .releaseBatch => readBatch .release wait body
  | .readSlot => (takePosition body).bind fun q => atEnd q.2 (.readSlot q.1)
  | .drop => (takePosition body).bind fun q => atEnd q.2 (.drop q.1)
  | .restore => readRestore body
  | .setNamespace =>
    (takeNum 1 body).bind fun t =>
    (takeNum 1 t.2).bind fun st =>
    (takeNum 1 st.2).bind fun h =>
    (nsStateOfCode st.1).bind fun state =>
    (flagOfCode h.1).bind fun hold =>
    guarded (decide (t.1 ≤ 63)) (atEnd h.2 (.setNamespace t.1 state hold))
  | .setPort => readSetPort body
  | .admitPort => (takeNum 1 body).bind fun t => (portOfNumber t.1).bind fun q => atEnd t.2 (.admitPort q)
  | .evict => (takeNum 1 body).bind fun t => (portOfNumber t.1).bind fun q => atEnd t.2 (.evict q)
  | .setEventMask =>
    (takeNum 2 body).bind fun m =>
    (takeNum 1 m.2).bind fun o =>
    (takeNum 1 o.2).bind fun l =>
    (edgeOfCode o.1).bind fun occ =>
    (edgeOfCode l.1).bind fun low =>
    guarded (decide (m.1 < 8192)) (atEnd l.2 (.setEventMask (BitVec.ofNat 13 m.1) occ low))
  | .setParameter =>
    (takeNum 1 body).bind fun c =>
    (takeNum 4 c.2).bind fun v =>
    (paramOfCode c.1).bind fun q => guarded (paramInRange q v.1) (atEnd v.2 (.setParameter q v.1))
  | .getParameter =>
    (takeNum 1 body).bind fun c => (paramOfCode c.1).bind fun q => atEnd c.2 (.getParameter q)

/-- The WAIT flag: bit 0 of the flags byte (R181). -/
def waitFlag (f : RequestFrame) : Bool := f.flags.getLsbD 0

/-- A kind that may carry WAIT (R109, R181). -/
def mayWait (k : Kind) : Bool := decide (k = .lookup) || decide (k = .lookupBatch)

/-- The request a frame of the kind carries, where its header and body are well formed: format, flags, WAIT, namespace
range, body length, and every field of the body (R134, R181). -/
@[irreducible] def readRequest (k : Kind) (f : RequestFrame) : Option Request :=
  if f.format = 0x01#8 ∧ f.flags &&& 0xFE#8 = 0#8 ∧ (waitFlag f = true → mayWait k = true) ∧ f.ns.toNat ≤ 63 ∧
      f.bodyLength.toNat = f.body.length
  then readBody k (waitFlag f) f.body
  else none

/-- The position a repair request names, for the test of the bucket number that only READY makes (R10, R134). -/
def requestPosition : Request → Option Position
  | .readSlot pos => some pos
  | .drop pos => some pos
  | .restore r => some r.pos
  | _ => none

/-! ## Writing request bodies (R181): what a master sends -/

/-- A token's eight bytes (R181). -/
def tokenBytes (t : Token) : List Byte :=
  beBytes 2 t.startCount.toNat ++ beBytes 2 t.claim.toNat ++ beBytes 4 t.generation.toNat

/-- A position's five bytes (R181). -/
def positionBytes (q : Position) : List Byte := beBytes 4 q.bucket ++ beBytes 1 q.index

/-- A fingerprint's 32 bytes. -/
def fpBytes (f : Fingerprint) : List Byte := beBytes 32 f.toNat

/-- The code of an optional flag, UNCHANGED being 0xFF. -/
def optCode {α : Type} (code : α → Byte) : Option α → Byte
  | some v => code v
  | none => 0xFF#8

/-- The items of a batch. -/
def itemBytes (withN : Bool) (items : List BatchItem) : List Byte :=
  items.flatMap (fun i => fpBytes i.fp ++ (if withN then beBytes 1 i.n else []))

/-- The body of a request (R181). -/
def requestBody : Request → List Byte
  | .identify | .portStatus | .indexStatus | .events | .stats | .openContainer | .snapshot | .format | .restart => []
  | .lookup f _ => fpBytes f
  | .probe f => fpBytes f
  | .ref f n => fpBytes f ++ beBytes 1 n
  | .release f n => fpBytes f ++ beBytes 1 n
  | .commit t f l => tokenBytes t ++ fpBytes f ++ locationBytes l
  | .abandon t f => tokenBytes t ++ fpBytes f
  | .move f src dst off len => fpBytes f ++ beBytes 2 src ++ beBytes 2 dst ++ beBytes 4 off ++ beBytes 4 len
  | .closeContainer c => beBytes 2 c
  | .reclaim c => beBytes 2 c
  | .containerStatus c => beBytes 2 c
  | .findEmpty c => beBytes 2 c
  | .cancel t => beBytes 2 t.toNat
  | .batch b =>
    beBytes 4 b.checkWord.toNat ++ beBytes 1 b.items.length ++ itemBytes (decide (b.kind = .release)) b.items
  | .readSlot q => positionBytes q
  | .drop q => positionBytes q
  | .restore r =>
    positionBytes r.pos ++ [entryCode r.state] ++ fpBytes r.fp ++ beBytes 2 r.refcount.toNat ++ locationBytes r.loc ++
      [r.ns]
  | .setNamespace t st h => beBytes 1 t ++ [optCode nsStateCode st, optCode flagCode h]
  | .setPort t m a =>
    [optCode (fun p => BitVec.ofNat 8 (portNumber p)) t, flagCode m.isSome] ++ mapBytes (m.getD 0#64) ++
      [optCode flagCode a]
  | .admitPort q => beBytes 1 (portNumber q)
  | .evict q => beBytes 1 (portNumber q)
  | .setEventMask m o l => beBytes 2 m.toNat ++ [optCode edgeCode o, optCode edgeCode l]
  | .setParameter q v => [paramCode q] ++ beBytes 4 v
  | .getParameter q => [paramCode q]

/-- The kind of a request. -/
def requestKind : Request → Kind
  | .identify => .identify
  | .portStatus => .portStatus
  | .indexStatus => .indexStatus
  | .containerStatus _ => .containerStatus
  | .findEmpty _ => .findEmpty
  | .events => .events
  | .setEventMask _ _ _ => .setEventMask
  | .stats => .stats
  | .getParameter _ => .getParameter
  | .setParameter _ _ => .setParameter
  | .lookup _ _ => .lookup
  | .probe _ => .probe
  | .ref _ _ => .ref
  | .release _ _ => .release
  | .move _ _ _ _ _ => .move
  | .readSlot _ => .readSlot
  | .drop _ => .drop
  | .restore _ => .restore
  | .commit _ _ _ => .commit
  | .abandon _ _ => .abandon
  | .cancel _ => .cancel
  | .openContainer => .openContainer
  | .closeContainer _ => .closeContainer
  | .reclaim _ => .reclaim
  | .batch b => match b.kind with | .lookup => .lookupBatch | .probe => .probeBatch | .release => .releaseBatch
  | .admitPort _ => .admitPort
  | .evict _ => .evict
  | .setNamespace _ _ _ => .setNamespace
  | .setPort _ _ _ => .setPort
  | .snapshot => .snapshot
  | .format => .format
  | .restart => .restart

/-- The request carries WAIT set. -/
def requestWaits : Request → Bool
  | .lookup _ w => w
  | .batch b => b.wait
  | _ => false

/-- The frame a master sends for a request under a namespace and tag (R181). -/
def requestFrame (r : Request) (ns : Nat) (tag : Tag) : RequestFrame :=
  { format := 0x01#8, flags := flagCode (requestWaits r), ns := BitVec.ofNat 8 ns, tag := tag,
    bodyLength := BitVec.ofNat 16 (requestBody r).length, body := requestBody r }

/-- Every field of a request fits its place in the frame and its stated range (R134, R181). -/
def requestInRange : Request → Bool
  | .ref _ n => decide (1 ≤ n) && decide (n ≤ 255)
  | .release _ n => decide (1 ≤ n) && decide (n ≤ 255)
  | .commit _ _ l => placementInRange l.offset.toNat l.length.toNat
  | .move _ src dst off len => decide (src < 65536) && decide (dst < 65536) && placementInRange off len
  | .closeContainer c => decide (c < 65536)
  | .reclaim c => decide (c < 65536)
  | .containerStatus c => decide (c < 65536)
  | .findEmpty c => decide (c < 65536)
  | .batch b =>
    decide (1 ≤ b.items.length) && decide (b.items.length ≤ 128) &&
      (b.items.all fun i =>
        if b.kind = .release then decide (1 ≤ i.n) && decide (i.n ≤ 255) else decide (i.n = 0)) &&
      (decide (b.kind = .lookup) || !b.wait)
  | .readSlot q => decide (q.bucket < 4294967296) && decide (q.index ≤ 7)
  | .drop q => decide (q.bucket < 4294967296) && decide (q.index ≤ 7)
  | .restore r =>
    decide (r.pos.bucket < 4294967296) && decide (r.pos.index ≤ 7) &&
      decide (restoreState (entryCode r.state).toNat r.refcount.toNat = some r.state) &&
      placementInRange r.loc.offset.toNat r.loc.length.toNat && decide (r.ns.toNat ≤ 63)
  | .setNamespace t _ _ => decide (t ≤ 63)
  | .setParameter q v => paramInRange q v
  | _ => true

/-! ## What a kind needs (R135, R136, R137, R142) -/

/-- The minimum privilege number of a kind (R135). -/
def kindPrivilege : Kind → Nat
  | .identify | .portStatus | .indexStatus | .containerStatus | .findEmpty | .events | .setEventMask | .stats
  | .getParameter | .probe | .probeBatch | .cancel => 3
  | .lookup | .lookupBatch | .ref | .commit | .abandon | .openContainer | .closeContainer | .move => 2
  | .release | .releaseBatch | .reclaim => 1
  | .setNamespace | .setPort | .admitPort | .evict | .drop | .restore | .readSlot | .setParameter | .snapshot | .format
  | .restart => 0

/-- The kinds exempt from the index-state check in every state (R136). -/
def kindExempt : Kind → Bool
  | .identify | .portStatus | .indexStatus | .events | .setEventMask | .getParameter | .admitPort | .restart => true
  | _ => false

/-- The kind may be taken in the index state: READY, or exempt, or FORMAT in UNFORMATTED (R136). -/
def kindAllowed (k : Kind) (st : IndexState) : Bool :=
  decide (st = .ready) || kindExempt k || (decide (k = .format) && decide (st = .unformatted))

/-- The namespace-checked kinds (R137). -/
def kindNsChecked : Kind → Bool
  | .lookup | .probe | .ref | .release | .commit | .lookupBatch | .probeBatch | .releaseBatch | .stats => true
  | _ => false

/-- The kinds refused in a READ_ONLY namespace (R137). -/
def kindWrites : Kind → Bool
  | .lookup | .lookupBatch | .ref | .commit => true
  | _ => false

/-- The kinds refused in a held namespace (R137). -/
def kindReleases : Kind → Bool
  | .release | .releaseBatch => true
  | _ => false

/-- The block that owns a request, sent at port `p` (R142). -/
def requestOwner (p : Port) : Request → Block
  | .lookup _ _ | .probe _ | .ref _ _ | .release _ _ | .move _ _ _ _ _ | .readSlot _ | .drop _ | .restore _ => .ixc
  | .commit _ _ _ | .abandon _ _ | .cancel _ => .clu
  | .openContainer | .closeContainer _ | .reclaim _ | .findEmpty _ | .containerStatus _ => .ctu
  | .batch _ => .bte
  | .setNamespace _ _ _ => .nst
  | .setPort target _ _ => .pu (target.getD p)
  | .admitPort target => .pu target
  | .evict target => .pu target
  | .portStatus | .events | .setEventMask _ _ _ => .pu p
  | .stats | .snapshot => .stu
  | .identify | .indexStatus | .setParameter _ _ | .getParameter _ | .format | .restart => .mif

/-- The index kinds wait for a turn at the arbiter; the other kinds are handed to their block (R129, R142). -/
def requestPhase (p : Port) (r : Request) : Phase :=
  if requestOwner p r = .ixc then .waiting else .atBlock

end Sys2Proof.Machine
end

