-- ==== Sys2Proof/Machine/Responses.lean ====
section
/-! DEFINITION. Response frames: outcome codes, the bodies that carry an outcome's values, and the bytes on the link (R182, R184). -/

namespace Sys2Proof.Machine

/-- The outcome codes that batch items share with single requests (R184). -/
def indexOutcomeCode : IndexOutcome → Byte
  | .duplicate _ _ _ => 0x01#8
  | .claimed _ _ => 0x02#8
  | .released _ => 0x04#8
  | .probeHit _ _ => 0x05#8
  | .probeMiss => 0x06#8
  | .inProgress _ => 0x07#8
  | .withdrawn => 0x08#8
  | .notTaken => 0x0A#8
  | .badFingerprint => 0x48#8
  | .noRoom => 0x49#8
  | .retry _ => 0x4A#8
  | .notFound => 0x4B#8
  | .underflow => 0x4C#8
  | .pinned => 0x4D#8
  | .suspect => 0x4E#8

/-- The outcome codes (R184). -/
def answerCode : Answer → Byte
  | .done _ => 0x00#8
  | .batchDone _ _ => 0x00#8
  | .committed => 0x03#8
  | .cancelled _ _ => 0x09#8
  | .index o => indexOutcomeCode o
  | .queueFull => 0x40#8
  | .tagInUse => 0x41#8
  | .fenced => 0x42#8
  | .malformed => 0x43#8
  | .denied => 0x44#8
  | .notReady _ => 0x45#8
  | .readOnly => 0x46#8
  | .held => 0x47#8
  | .late => 0x4F#8
  | .mismatch => 0x50#8
  | .notOwner => 0x51#8
  | .overlap => 0x52#8
  | .containerFull => 0x53#8
  | .openLimit => 0x54#8
  | .noContainer => 0x55#8
  | .notEmpty => 0x56#8
  | .wrongState => 0x57#8
  | .wrongLocation => 0x58#8
  | .lengthMismatch => 0x59#8
  | .checkFail => 0x5A#8
  | .tooLate => 0x5B#8

/-- The values of an index outcome (R182). Bits 2 to 7 of a DUPLICATE's flags are sent as 0: DESIGN CHOICE (log 48). -/
def indexOutcomeBytes : IndexOutcome → List Byte
  | .duplicate l pinned resurrected =>
    locationBytes l ++ [(if pinned then 1#8 else 0#8) ||| (if resurrected then 2#8 else 0#8)]
  | .claimed t h => tokenBytes t ++ beBytes 1 h
  | .released r => beBytes 2 r.toNat
  | .probeHit st l => [entryCode st] ++ locationBytes l
  | .inProgress c => beBytes 2 c.toNat
  | .retry r => [retryCode r]
  | .probeMiss | .withdrawn | .notTaken | .badFingerprint | .noRoom | .notFound | .underflow | .pinned | .suspect => []

/-- An item record: the outcome code and its values, left-aligned in 11 bytes (R182). -/
def itemRecord (o : IndexOutcome) : List Byte :=
  let values := indexOutcomeBytes o
  [indexOutcomeCode o] ++ values ++ List.replicate (11 - values.length) 0#8

/-- The number of items that hold an outcome code. -/
def codeCount (items : List IndexOutcome) (code : Nat) : Nat :=
  items.countP (fun o => decide ((indexOutcomeCode o).toNat = code))

/-- The count pairs: each outcome code that an item holds with its count, in ascending code order (R120). -/
def countPairs (items : List IndexOutcome) : List (Nat × Nat) :=
  (List.range 256).filterMap (fun code => if codeCount items code = 0 then none else some (code, codeCount items code))

/-- A batch body (R182). -/
def batchBytes (cursor : Nat) (items : List IndexOutcome) : List Byte :=
  beBytes 1 cursor ++ beBytes 1 items.length ++ items.flatMap itemRecord ++
    beBytes 1 (countPairs items).length ++ (countPairs items).flatMap (fun c => beBytes 1 c.1 ++ beBytes 1 c.2)

/-- A counter: six bytes and its saturated flag (R182). -/
def counterBytes (c : Counter) : List Byte := beBytes 6 c.value ++ [flagCode c.saturated]

/-- Teardown outstanding: bit 0 CTU, bit 1 BTE, bit 2 CLU (R182). -/
def teardownByte (ctu bte clu : Bool) : Byte :=
  (if ctu then 1#8 else 0#8) ||| (if bte then 2#8 else 0#8) ||| (if clu then 4#8 else 0#8)

/-- The values of a DONE, in the order their rules list them and the widths of R182. Where R182 lists no width, the
cursor, the queue entries in use and the open count take four bytes as counts do, and an edge mode one byte as in its
request: DESIGN CHOICE (log 22). A live count or live bytes of 2^32 or more are sent in their low 32 bits: DESIGN CHOICE
(log 36). -/
def valuesBytes : Values → List Byte
  | .none => []
  | .identity r =>
    beBytes 2 Config.vendorCode.toNat ++ beBytes 2 Config.partNumber.toNat ++ [Config.revision] ++
      beBytes 2 r.startCount.toNat ++ (fourList r.modules).flatMap (fun m => [m.1, moduleStatusCode m.2]) ++
      beBytes 4 r.capacity ++ beBytes 4 r.bucketCount ++ [flagCode r.recordedCapacity.isSome] ++
      beBytes 4 (r.recordedCapacity.getD 0#32).toNat ++ [flagCode r.settingsDefaulted, flagCode r.containerRebuilt]
  | .portReport r =>
    beBytes 1 (portNumber r.port) ++ beBytes 1 r.privilege.toNat ++ [portStateCode r.state] ++
      (fourList r.states).map portStateCode ++
      [flagCode r.autoAdmit, flagCode r.suppression, flagCode r.persistenceMet,
        teardownByte r.teardownCtu r.teardownBte r.teardownClu] ++
      mapBytes r.nsMap ++ beBytes 2 r.session.toNat ++ beBytes 4 r.queued ++ beBytes 4 r.openCount ++
      beBytes 2 r.events.toNat
  | .indexReport r =>
    [indexStateCode r.state] ++ beBytes 4 r.occupancy ++ beBytes 4 r.capacity ++ beBytes 4 r.claimsInUse ++
      beBytes 4 r.waitersInUse ++ beBytes 4 r.freeCount ++ beBytes 4 r.cursor ++ beBytes 4 r.passCount.toNat ++
      beBytes 5 r.clock.toNat
  | .container c =>
    [containerStateCode c.state] ++ beBytes 1 (portNumber c.owner) ++ beBytes 4 c.fill ++ beBytes 4 c.live ++
      beBytes 4 c.bytes
  | .found c => [flagCode c.isSome] ++ beBytes 2 (c.getD 0)
  | .opened c => beBytes 2 c
  | .eventSet set o l => beBytes 2 set.toNat ++ [flagCode o, flagCode l]
  | .eventMask mask o l => beBytes 2 mask.toNat ++ [edgeCode o, edgeCode l]
  | .stats seq ns port => beBytes 4 seq.toNat ++ ns.flatMap counterBytes ++ port.flatMap counterBytes
  | .parameter v => beBytes 4 v
  | .slot im check => imageBytes im ++ [flagCode check]
  | .namespaceRec r => [nsStateCode r.state, flagCode r.hold]
  | .portSetting r => mapBytes r.nsMap ++ [flagCode r.autoAdmit]
  | .sequence seq => beBytes 4 seq.toNat

/-- The body of a response (R182). -/
def answerBytes : Answer → List Byte
  | .done v => valuesBytes v
  | .batchDone cursor items => batchBytes cursor items
  | .cancelled cursor items => batchBytes cursor items
  | .index o => indexOutcomeBytes o
  | .notReady st => [indexStateCode st]
  | .committed | .queueFull | .tagInUse | .fenced | .malformed | .denied | .readOnly | .held | .late | .mismatch
  | .notOwner | .overlap | .containerFull | .openLimit | .noContainer | .notEmpty | .wrongState | .wrongLocation
  | .lengthMismatch | .checkFail | .tooLate => []

/-- A response frame on the link: header, body and frame check (R180, R182). -/
def responseBytes (r : Response) : List Byte :=
  withFrameCheck
    ([r.kind, answerCode r.answer] ++ beBytes 2 r.tag.toNat ++ beBytes 2 (answerBytes r.answer).length ++
      answerBytes r.answer)

end Sys2Proof.Machine
end

