-- ==== Sys2Proof/Machine/Flags.lean ====
section
/-! DEFINITION. Flags and counts: event sets and attention lines, the two level conditions, the saturating counters, and the capacity that the conditions and buckets rest on. -/

namespace Sys2Proof.Machine

/-! ## Port units in the state -/

/-- The port unit of a port. -/
def portUnit (s : State) (p : Port) : PortUnit := fourGet s.ports p

/-- The state with one port unit changed. -/
def updPort (p : Port) (g : PortUnit → PortUnit) (s : State) : State :=
  { s with ports := fourSet s.ports p (g (fourGet s.ports p)) }

/-- The state with every port unit changed, each by a function of its port. -/
def updPorts (g : Port → PortUnit → PortUnit) (s : State) : State :=
  { s with ports := fourOf (fun p => g p (fourGet s.ports p)) }

/-! ## Events and attention lines (R166, R170) -/

/-- The bit of an event kind in a set or mask (R181, R184). -/
def eventBit (k : EventKind) : BitVec 13 := BitVec.twoPow 13 (eventCode k)

/-- The attention line re-evaluated: asserted while event set and mask intersect (R170), in the silence after a RESTART as
at any other time, DESIGN CHOICE (log 40). -/
def unitAttn (u : PortUnit) : PortUnit := { u with attn := decide (u.events &&& u.mask ≠ 0#13) }

/-- A kind raised at a port unit: added in FENCED and ONLINE, and the set stays empty in DOWN (R147, R166). -/
def unitRaise (k : EventKind) (u : PortUnit) : PortUnit :=
  if u.state = .down then u else unitAttn { u with events := u.events ||| eventBit k }

/-- An event raised to one port. -/
def raiseTo (p : Port) (k : EventKind) (s : State) : State := updPort p (unitRaise k) s

/-- An event raised to all ports. -/
def raiseAll (k : EventKind) (s : State) : State := updPorts (fun _ => unitRaise k) s

/-- An event raised to all other ports. -/
def raiseOthers (p : Port) (k : EventKind) (s : State) : State :=
  updPorts (fun q u => if q = p then u else unitRaise k u) s

/-! ## Level conditions (R12, R86, R167) -/

/-- A rise or fall of OCCUPANCY_HIGH taken at a port unit (R167). -/
def unitSignalOccupancy (v : Bool) (u : PortUnit) : PortUnit :=
  if u.occEdge = .both ∨ v = true then unitRaise .occupancyHigh { u with occSignalled := v }
  else { u with occSignalled := v }

/-- A rise or fall of CONTAINERS_LOW taken at a port unit (R167). -/
def unitSignalLow (v : Bool) (u : PortUnit) : PortUnit :=
  if u.lowEdge = .both ∨ v = true then unitRaise .containersLow { u with lowSignalled := v }
  else { u with lowSignalled := v }

/-- The descriptor check holds and the size code is one of the four (R171). -/
def descriptorValid (d : Descriptor) : Bool := decide (d.check = d.size ^^^ 0xFF#8) && decide (d.size.toNat ≤ 3)

/-- The descriptor is of a fitted module (R171). -/
def descriptorFitted (d : Descriptor) : Bool := descriptorValid d && decide (d.size ≠ 0#8)

/-- The slots of a module by its size code (R171). -/
def moduleSlots (d : Descriptor) : Nat :=
  match d.size.toNat with
  | 1 => 16777216
  | 2 => 33554432
  | 3 => 67108864
  | _ => 0

/-- The sizes of the counted modules: from slot 0 upward, up to the first slot that is unfitted or invalid (R171). -/
def countedSizes (ds : Four Descriptor) : List Nat := ((fourList ds).takeWhile descriptorFitted).map moduleSlots

/-- The sum of the sizes of the counted modules (R171). -/
def capacityOf (ds : Four Descriptor) : Nat := (countedSizes ds).sum

/-- The capacity. -/
def capacity (s : State) : Nat := capacityOf s.mif.descriptors

/-- The bucket count: the capacity divided by 8 (R2). -/
def bucketCount (s : State) : Nat := capacity s / Config.bucketSlots

/-- The value OCCUPANCY_HIGH has by R12. -/
def occupancyCondition (s : State) : Bool :=
  decide (s.mif.indexState = .ready) && decide (s.params.occupancyPct * capacity s ≤ s.ixc.occupancy * 100)

/-- OCCUPANCY_HIGH evaluated: a change is signalled to all four port units (R12). -/
@[irreducible] def evalOccupancy (s : State) : State :=
  if occupancyCondition s = s.ixc.occupancyHigh then s
  else updPorts (fun _ => unitSignalOccupancy (occupancyCondition s))
    { s with ixc := { s.ixc with occupancyHigh := occupancyCondition s } }

/-- The value CONTAINERS_LOW has by R86. -/
def containersLowCondition (s : State) : Bool :=
  decide (s.mif.indexState = .ready) && decide (s.ctu.freeList.length < s.params.containersLowCount)

/-- CONTAINERS_LOW evaluated: a change is signalled to all four port units (R86). -/
@[irreducible] def evalContainersLow (s : State) : State :=
  if containersLowCondition s = s.ctu.containersLow then s
  else updPorts (fun _ => unitSignalLow (containersLowCondition s))
    { s with ctu := { s.ctu with containersLow := containersLowCondition s } }

/-- Occupancy set, and OCCUPANCY_HIGH evaluated at the change (R11, R12). -/
def setOccupancy (n : Nat) (s : State) : State := evalOccupancy { s with ixc := { s.ixc with occupancy := n } }

/-! ## Counters (R160, R161) -/

/-- The place of a namespace counter among the ten. -/
def nsCounterIndex : NsCounter → Nat
  | .lookups => 0 | .hits => 1 | .hitBytes => 2 | .claims => 3 | .commits => 4 | .commitBytes => 5
  | .releases => 6 | .zeroed => 7 | .purges => 8 | .purgeBytes => 9

/-- The place of a port counter among the four. -/
def portCounterIndex : PortCounter → Nat
  | .framesIn => 0 | .framesBad => 1 | .queueFulls => 2 | .expiredClaims => 3

/-- The number of a namespace counter: ten for each of the 64 namespaces (R160). -/
def nsCounter (ns : Nat) (c : NsCounter) : Nat := ns * 10 + nsCounterIndex c

/-- The number of a port counter: four for each port, behind the 640 namespace counters (R160). -/
def portCounter (p : Port) (c : PortCounter) : Nat := 640 + portNumber p * 4 + portCounterIndex c

/-- Saturating addition: the flag is set when the sum reaches 2^48 - 1 (R161). -/
def counterAdd (c : Counter) (n : Nat) : Counter :=
  if c.value + n < Config.counterMax then { c with value := c.value + n }
  else { value := Config.counterMax, saturated := true }

/-- One amount of a count. The first flag set in a round raises COUNTER_SATURATED to all ports (R161). -/
@[irreducible] def countOne (k n : Nat) (s : State) : State :=
  let before := tableGet Counter.zero s.stu.live k
  let after := counterAdd before n
  let live := tableSet Counter.zero s.stu.live k after
  if after.saturated = true ∧ before.saturated = false ∧ s.stu.notice = false then
    raiseAll .counterSaturated { s with stu := { s.stu with live := live, notice := true } }
  else { s with stu := { s.stu with live := live } }

/-- An amount counted in a namespace. A number above 63, which only a damaged entry carries, names no counter (log 24). -/
def countNs (ns : Nat) (c : NsCounter) (n : Nat) (s : State) : State :=
  if ns ≤ 63 then countOne (nsCounter ns c) n s else s

/-- An amount counted for a port. -/
def countPort (p : Port) (c : PortCounter) (n : Nat) (s : State) : State := countOne (portCounter p c) n s

/-- A snapshot: the snapshot counters take what the live counters hold, which start afresh (R162). -/
def takeSnapshot (s : State) : State :=
  raiseAll .snapshotReady
    { s with
      stu := { s.stu with live := [], snap := s.stu.live, notice := false, sequence := s.stu.sequence + 1#32 } }

end Sys2Proof.Machine
end

