-- ==== Sys2Proof/Machine/Ops.lean ====
section
/-! DEFINITION. The named operations that the meanings share: answers, slots and their verification, claims and waiters, containers, header and areas, port states, and the arbiter. -/

namespace Sys2Proof.Machine

/-- What a command answers: the part never stops, so it is a next state. -/
abbrev Result := Host.Outcome State Fault Refusal

/-- What a part without supply does with a command: nothing (log 27). -/
def whenPowered (s : State) (g : State → State) : State := if s.powered = true then g s else s

/-- The state with something done where a condition holds; a command whose condition does not hold changes nothing (log 3). -/
def doWhen (b : Bool) (g : State → State) (s : State) : State := if b = true then g s else s

/-! ## Queues and answers (R129, R143, R153) -/

/-- The queued request with a tag at a port. -/
def queued (s : State) (p : Port) (tag : Tag) : Option QEntry :=
  (portUnit s p).queue.find? (fun e => decide (e.tag = tag))

/-- A change of the queue entry with a tag. -/
def updEntry (p : Port) (tag : Tag) (g : QEntry → QEntry) (s : State) : State :=
  updPort p (fun u => { u with queue := u.queue.map (fun e => if e.tag = tag then g e else e) }) s

/-- A request noted as taken by its block. -/
def markTaken (p : Port) (tag : Tag) (s : State) : State := updEntry p tag (fun e => { e with taken := true }) s

/-- A response put at the tail of a port's list (R143). -/
def respond (p : Port) (r : Response) (s : State) : State :=
  updPort p (fun u => { u with responses := u.responses ++ [r] }) s

/-- An outcome handed to a port unit: the response is sent only when the mark is the port's session number and the
request is queued, and then the request leaves the queue; any other outcome is dropped (R143, R153). Once a RESTART is
taken no request gets a response (R177), and one whose outcome its block has fixed stays queued as taken, so that its block
takes it once (R142). -/
@[irreducible] def answer (p : Port) (tag : Tag) (mark : Session) (a : Answer) (s : State) : State :=
  match queued s p tag with
  | none => s
  | some e =>
    if mark ≠ (portUnit s p).session then s
    else if s.mif.restartTaken = true then markTaken p tag s
    else
      updPort p (fun u =>
        { u with
          queue := u.queue.filter (fun x => decide (x.tag ≠ tag)),
          responses := u.responses ++ [{ kind := kindCode e.kind, tag := tag, answer := a }] }) s

/-- An outcome of a queue entry handed to its port unit. -/
def answerEntry (p : Port) (e : QEntry) (a : Answer) (s : State) : State := answer p e.tag e.mark a s

/-! ## Slots (R3, R11, R13 to R15, R171) -/

/-- The place of the slot numbered `n` from module `m` on, where these modules are counted. -/
def placeFrom : Nat → List Nat → Nat → Nat
  | m, [], n => m * Config.moduleSpan + n
  | m, size :: rest, n => if n < size then m * Config.moduleSpan + n else placeFrom (m + 1) rest (n - size)

/-- The place of a slot in index memory: slot numbers run through the counted modules in module-slot order (R3). A
number at or above the capacity, which no operation in READY forms, has a place of its own (log 28). -/
def slotPlace (ds : Four Descriptor) (n : Nat) : Nat := placeFrom 0 (countedSizes ds) n

/-- The slot number of a place, from module `m` on with `base` slots before it; none outside the counted modules. -/
def slotNumberFrom : Nat → Nat → List Nat → Nat → Option Nat
  | _, _, [], _ => none
  | m, base, size :: rest, k =>
    if m * Config.moduleSpan ≤ k ∧ k < m * Config.moduleSpan + size then some (base + (k - m * Config.moduleSpan))
    else slotNumberFrom (m + 1) (base + size) rest k

/-- The slot number of a place in index memory; none where no counted module has it (R3). -/
def slotNumber (ds : Four Descriptor) (k : Nat) : Option Nat := slotNumberFrom 0 0 (countedSizes ds) k

/-- A slot's image as stored. -/
def slotGet (s : State) (n : Nat) : SlotImage := tableGet SlotImage.free s.mem.slots (slotPlace s.mif.descriptors n)

/-- A slot written. -/
def slotPut (n : Nat) (im : SlotImage) (s : State) : State :=
  { s with mem := { s.mem with slots := tableSet SlotImage.free s.mem.slots (slotPlace s.mif.descriptors n) im } }

/-- The state of a slot, where its state field holds one of the six codes. -/
def slotState (s : State) (n : Nat) : Option EntryState := imageState (slotGet s n)

/-- The slot number of a position (R3). -/
def positionSlot (q : Position) : Nat := q.bucket * Config.bucketSlots + q.index

/-- A claim record. -/
def claimGet (s : State) (n : Nat) : ClaimRec := tableGet ClaimRec.zero s.clu.claims n

/-- A claim record written. -/
def claimPut (n : Nat) (r : ClaimRec) (s : State) : State :=
  { s with clu := { s.clu with claims := tableSet ClaimRec.zero s.clu.claims n r } }

/-- The record is in use (R43). -/
def claimInUse (r : ClaimRec) : Bool := decide (r.phase ≠ .free)

/-- The position query: the record in use, in any phase, whose entry position is the slot (R15, R44). -/
def positionQuery (s : State) (n : Nat) : Option (Nat × ClaimRec) :=
  s.clu.claims.find? (fun e => claimInUse e.2 && decide (e.2.position = n))

/-- A slot that fails verification and that no claim record names (R14, R15). An occupancy count at 0, which damage alone
can meet with a decrement of R11, stays at 0: DESIGN CHOICE (log 34). -/
@[irreducible] def repairUnclaimed (n : Nat) (s : State) : State :=
  let im := slotGet s n
  let occ := s.ixc.occupancy
  match imageState im with
  | some .pending =>
    if im.loc.length = 0#32 then raiseAll .suspectFound (setOccupancy (occ - 1) (slotPut n SlotImage.free s))
    else raiseAll .suspectFound (slotPut n (imageSuspect im) s)
  | some .free =>
    if im.loc.length = 0#32 then raiseAll .suspectFound (slotPut n SlotImage.free s)
    else raiseAll .suspectFound (setOccupancy (occ + 1) (slotPut n (imageSuspect im) s))
  | _ => raiseAll .suspectFound (slotPut n (imageSuspect im) s)

/-- A slot verified: a SUSPECT slot is not verified again, a slot that holds is kept, and a slot that fails is rewritten
from the claim record that names it or dealt with as R14 and R15 state (R13 to R16). A SUSPECT slot that a claim record
names stays SUSPECT here, and the claim unit's own update rewrites it (log 35). -/
@[irreducible] def verifySlot (n : Nat) (s : State) : State :=
  if slotState s n = some .suspect ∨ imageHolds (slotGet s n) = true then s
  else
    match positionQuery s n with
    | some e => slotPut n (imagePending e.2.fp e.1) s
    | none => repairUnclaimed n s

/-! ## Search (R2, R7) -/

/-- The home bucket (R2). -/
def homeBucket (bc : Nat) (fp : Fingerprint) : Nat := fp.toNat / 2 ^ 224 % bc

/-- The candidate for the alternate bucket (R2). -/
def candidateBucket (bc : Nat) (fp : Fingerprint) : Nat := fp.toNat / 2 ^ 192 % 2 ^ 32 % bc

/-- The alternate bucket (R2). -/
def alternateBucket (bc : Nat) (fp : Fingerprint) : Nat :=
  if candidateBucket bc fp = homeBucket bc fp then (homeBucket bc fp + 1) % bc else candidateBucket bc fp

/-- The eight slots of a bucket, in slot-index order (R3). -/
def bucketSlots (b : Nat) : List Nat := (List.range Config.bucketSlots).map (fun i => b * Config.bucketSlots + i)

/-- The slots a search reads, in its order: home bucket, then alternate bucket (R7). -/
def searchSlots (bc : Nat) (fp : Fingerprint) : List Nat :=
  bucketSlots (homeBucket bc fp) ++ bucketSlots (alternateBucket bc fp)

/-- The slot is not FREE and holds the fingerprint (R7). -/
def slotMatches (s : State) (fp : Fingerprint) (n : Nat) : Bool :=
  decide (slotState s n ≠ some .free) && decide ((slotGet s n).fp = fp)

/-- Slots read in order, each verified and then compared, up to the first that matches (R7). -/
@[irreducible] def searchFrom (fp : Fingerprint) : List Nat → State → State × Option Nat
  | [], s => (s, none)
  | n :: rest, s =>
    if slotMatches (verifySlot n s) fp n = true then (verifySlot n s, some n) else searchFrom fp rest (verifySlot n s)

/-- The search for a fingerprint (R7). -/
def searchIndex (fp : Fingerprint) (s : State) : State × Option Nat := searchFrom fp (searchSlots (bucketCount s) fp) s

/-- The slot an insert chooses: the lowest FREE slot of the home bucket, else of the alternate bucket (R9). -/
def chooseSlot (s : State) (fp : Fingerprint) : Option Nat :=
  (searchSlots (bucketCount s) fp).find? (fun n => decide (slotState s n = some .free))

/-! ## Claims and waiters (R43 to R53) -/

/-- The token of a claim record's present grant (R45). -/
def claimToken (s : State) (n : Nat) (r : ClaimRec) : Token :=
  { startCount := s.mif.startCount, claim := BitVec.ofNat 16 n, generation := r.generation }

/-- The lowest-numbered FREE record (R45). -/
def freeClaim (s : State) : Option Nat :=
  (List.range Config.claimRecords).find? (fun n => decide ((claimGet s n).phase = .free))

/-- A deadline armed now (R47). -/
def newDeadline (s : State) : Nat := s.tmb.ms + s.params.claimWindowMs

/-- The record that a grant fills (R45). -/
def grantRecord (s : State) (r : ClaimRec) (slot : Nat) (fp : Fingerprint) (w : Waiter) : ClaimRec :=
  { phase := .held, generation := r.generation + 1#32, position := slot, fp := fp, claimant := some w,
    deadline := newDeadline s, handover := 0, details := none, waiters := [] }

/-- A FREE record, its generation kept (R43). -/
def freedRecord (r : ClaimRec) : ClaimRec := { ClaimRec.zero with generation := r.generation }

/-- The waiter records not in the pool (R48). -/
def waitersInUse (s : State) : Nat := (s.clu.claims.map (fun e => e.2.waiters.length)).sum

/-- A waiter appended at the tail of a claim's list (R49). -/
def parkWaiter (n : Nat) (w : Waiter) (s : State) : State :=
  claimPut n { claimGet s n with waiters := (claimGet s n).waiters ++ [w] } s

/-- A message put on the claim unit's path to the batch engine (R111). -/
def sendBte (m : BteMessage) (s : State) : State := { s with bte := { s.bte with inbox := s.bte.inbox ++ [m] } }

/-- A waiter answered: a single LOOKUP by its port unit, a batch item by an item answer (R51, R58, R118). -/
@[irreducible] def answerWaiter (w : Waiter) (o : IndexOutcome) (s : State) : State :=
  match w.origin with
  | .single tag mark => answer w.port tag mark (.index o) s
  | .item ctx idx => sendBte (.itemAnswer ctx idx w.port o) s

/-- The record that a handover to the waiter at the head of the list fills (R50). -/
def handoverRecord (s : State) (r : ClaimRec) (w : Waiter) (rest : List Waiter) : ClaimRec :=
  { r with
    phase := .held, generation := r.generation + 1#32, claimant := some w, deadline := newDeadline s,
    handover := min Config.handoverMax (r.handover + 1), details := none, waiters := rest }

/-- A handover: the head of the waiter list becomes claimant, CLAIMS is counted in its namespace, and it is answered
CLAIMED with the new token (R50, R51). -/
def handOver (n : Nat) (w : Waiter) (rest : List Waiter) (s : State) : State :=
  let r := handoverRecord s (claimGet s n) w rest
  answerWaiter w (.claimed (claimToken s n r) r.handover) (countNs w.ns .claims 1 (claimPut n r s))

/-- A record put in CLOSING, and its freeing update queued behind the updates already queued (R52). -/
def closeClaim (n : Nat) (s : State) : State :=
  let r := claimGet s n
  let s := claimPut n { r with phase := .closing, claimant := none, deadline := 0, details := none } s
  { s with clu := { s.clu with updates := s.clu.updates ++ [.freeing n] } }

/-- Release-of-claim: a handover where a waiter stands on the list, else CLOSING (R50, R52). -/
@[irreducible] def releaseClaim (n : Nat) (s : State) : State :=
  match (claimGet s n).waiters with
  | [] => closeClaim n s
  | w :: rest => handOver n w rest s

/-- An expiry taken for a HELD record: CLAIM_EXPIRED to the claimant's port, its EXPIRED_CLAIMS, and release-of-claim
(R55). -/
def expireClaim (n : Nat) (s : State) : State :=
  match (claimGet s n).claimant with
  | none => releaseClaim n s
  | some w => releaseClaim n (countPort w.port .expiredClaims 1 (raiseTo w.port .claimExpired s))

/-- The record is HELD and its deadline has been reached (R47). -/
def claimDue (s : State) (n : Nat) : Bool :=
  decide ((claimGet s n).phase = .held) && decide ((claimGet s n).deadline ≤ s.tmb.ms)

/-- Waiters that a test names removed from every claim's list; the others keep their order (R62, R65, R123). -/
def removeWaiters (gone : Waiter → Bool) (s : State) : State :=
  { s with
    clu :=
      { s.clu with
        claims := tableMap ClaimRec.zero
          (fun _ r => { r with waiters := r.waiters.filter (fun w => !gone w) }) s.clu.claims } }

/-- The waiters that a test names, claim by claim. -/
def waitersWhere (gone : Waiter → Bool) (s : State) : List Waiter :=
  s.clu.claims.flatMap (fun e => e.2.waiters.filter gone)

/-! ## Containers (R69 to R90) -/

/-- A container record. -/
def containerGet (s : State) (c : Nat) : ContainerRec := tableGet ContainerRec.zero s.mem.containers c

/-- The fourteen bytes of a container record (R173). R69 gives live count and live bytes no bound: a number of 2^32 or more
is kept whole and stored in its low 32 bits, DESIGN CHOICE (log 36). -/
def containerBytes (r : ContainerRec) : List Byte :=
  [containerStateCode r.state] ++ beBytes 1 (portNumber r.owner) ++ beBytes 4 r.fill ++ beBytes 4 r.live ++
    beBytes 4 r.bytes

/-- The area check: the code of R180 over every byte of the container-table area before it (R173). -/
@[irreducible] def areaCheck (t : List (Nat × ContainerRec)) : BitVec 32 :=
  crc32 ((List.range Config.containerRecords).flatMap (fun c => containerBytes (tableGet ContainerRec.zero t c)))

/-- Index memory with the container table written and its check anew (R69, R173). -/
def memContainers (t : List (Nat × ContainerRec)) (m : IndexMemory) : IndexMemory :=
  { m with containers := t, containersCheck := areaCheck t }

/-- A container record written, in the container-table area (R69). -/
def containerPut (c : Nat) (r : ContainerRec) (s : State) : State :=
  { s with mem := memContainers (tableSet ContainerRec.zero s.mem.containers c r) s.mem }

/-- The tests of a placement check in their order: the refusal of the first that fails (R81). -/
def placementTest (s : State) (p : Port) (c offset length : Nat) : Option Answer :=
  let r := containerGet s c
  if r.state ≠ .opened ∨ r.owner ≠ p then some .notOwner
  else if offset < r.fill then some .overlap
  else if Config.containerBytes < offset + length then some .containerFull
  else none

/-- A placement applied: fill, live count and live bytes (R81). -/
def placeChunk (c offset length : Nat) (s : State) : State :=
  let r := containerGet s c
  containerPut c { r with fill := offset + length, live := r.live + 1, bytes := r.bytes + length } s

/-- An entry departure: live count and live bytes lowered, each to 0 at most, whatever the state (R80). -/
def departEntry (c length : Nat) (s : State) : State :=
  let r := containerGet s c
  containerPut c { r with live := r.live - 1, bytes := r.bytes - length } s

/-- The departure of the entry at a location. -/
def departLocation (l : Location) (s : State) : State := departEntry l.container.toNat l.length.toNat s

/-- The tests of an accounting transfer (R84). -/
def transferTest (s : State) (l : Location) : Option Answer :=
  if (containerGet s l.container.toNat).state = .free then some .wrongState
  else if Config.containerBytes < l.offset.toNat + l.length.toNat then some .containerFull
  else none

/-- A restored entry counted: the container gains, and its fill is raised where the location ends beyond it (R84). -/
def gainEntry (l : Location) (s : State) : State :=
  let r := containerGet s l.container.toNat
  containerPut l.container.toNat
    { r with
      fill := max r.fill (l.offset.toNat + l.length.toNat), live := r.live + 1, bytes := r.bytes + l.length.toNat } s

/-- An accounting transfer applied: the restored container gains and the recorded one loses (R84). The gain comes first,
so that the counts of one container that is both end as they were at equal lengths, whatever they were: DEDUCED (log 37). -/
def transferEntry (recorded restored : Location) (s : State) : State :=
  departLocation recorded (gainEntry restored s)

/-! ## Header and settings area (R172, R173) -/

/-- Bytes 0 to 14 of the index header (R173). -/
def headerBytes (h : Header) : List Byte :=
  beBytes 4 h.mark.toNat ++ beBytes 4 h.capacity.toNat ++ beBytes 2 h.startCount.toNat ++ beBytes 5 h.clock.toNat

/-- The header with its check written anew (R173). -/
def headerFresh (h : Header) : Header := { h with check := crc16 (headerBytes h) }

/-- The format mark is present and the header check holds (R172, R173). -/
def headerValid (h : Header) : Bool :=
  decide (h.mark = Config.formatMark) && decide (h.check = crc16 (headerBytes h))

/-- Index memory with the header written. -/
def memHeader (g : Header → Header) (m : IndexMemory) : IndexMemory := { m with header := headerFresh (g m.header) }

/-- Bytes 0 to 199 of the settings area (R173). -/
def settingsBytes (v : Settings) : List Byte :=
  allParams.flatMap (fun q => beBytes 4 (paramValue v.params q)) ++
    (List.range 64).flatMap (fun n =>
      let r := tableGet NsRec.zero v.namespaces n
      [nsStateCode r.state, flagCode r.hold]) ++
    (fourList v.ports).flatMap (fun r => mapBytes r.nsMap ++ [flagCode r.autoAdmit])

/-- The settings check (R173). -/
@[irreducible] def settingsCheckOf (v : Settings) : BitVec 32 := crc32 (settingsBytes v)

/-- Index memory with the settings area written and its check anew (R173). -/
def memSettings (v : Settings) (m : IndexMemory) : IndexMemory :=
  { m with settings := v, settingsCheck := settingsCheckOf v }

/-- The state with index memory changed. -/
def updMem (g : IndexMemory → IndexMemory) (s : State) : State := { s with mem := g s.mem }

/-! ## Port states (R145 to R152) -/

/-- The port has teardown outstanding (R145). -/
def teardownOutstanding (u : PortUnit) : Bool := u.teardownCtu || u.teardownBte || u.teardownClu

/-- Entering ONLINE: PEER_ADMITTED to all other ports (R150). -/
def enterOnline (p : Port) (s : State) : State :=
  raiseOthers p .peerAdmitted (updPort p (fun u => { u with state := .online }) s)

/-- The five conditions of automatic admission (R149). -/
def admissible (u : PortUnit) : Bool :=
  decide (u.state = .fenced) && u.persistenceMet && !teardownOutstanding u && !u.suppression &&
    (decide (u.privilege = 0#2) || u.autoAdmit)

/-- Automatic admission evaluated at a port (R149). -/
@[irreducible] def evalAdmission (p : Port) (s : State) : State := if admissible (portUnit s p) = true then enterOnline p s else s

/-- What every port unit evaluates in turn. -/
def evalAdmissions (s : State) : State := allPorts.foldl (fun s p => evalAdmission p s) s

/-- A port unit whose link is lost: the queue and the responses not begun are discarded, the begun one is finished, the
event set is emptied and the link counts are cleared (R143, R146, R148, R151; what is begun: log 16). -/
def unitDown (silenced : Bool) (u : PortUnit) : PortUnit :=
  unitAttn
    { u with
      state := .down, session := u.session + 1#16, queue := [], responses := [],
      finishing := if u.finishing.isSome ∨ silenced = true then u.finishing else u.responses.head?,
      events := 0#13, quiet := 0, persistence := 0, persistenceMet := false, symbolSeen := false }

/-- A FORMAT of the port that waits for the operation in progress is discarded with the queue (R151, log 17). -/
def dropWaitingFormat (p : Port) (s : State) : State :=
  match s.mif.formatWaits with
  | some (q, _) => if q = p then { s with mif := { s.mif with formatWaits := none } } else s
  | none => s

/-- The teardown of a port handed to the three blocks (R151, R152). -/
def unitTeardown (u : PortUnit) : PortUnit := { u with teardownCtu := true, teardownBte := true, teardownClu := true }

/-- Loss taken by a port (R148, R151): from ONLINE with PEER_LOST and teardown, from FENCED without. -/
@[irreducible] def takeLoss (p : Port) (s : State) : State :=
  match (portUnit s p).state with
  | .down => s
  | .fenced => updPort p (unitDown s.mif.silenced) s
  | .online =>
    raiseOthers p .peerLost
      (dropWaitingFormat p (updPort p (fun u => unitTeardown (unitDown s.mif.silenced u)) s))

/-- EVICT's departure: from ONLINE to FENCED, with the queue discarded, and the response list, whose responses are
transmitted, and the event set kept (R143, R151, R156). -/
def takeEviction (p : Port) (s : State) : State :=
  raiseTo p .portFenced
    (raiseOthers p .peerLost
      (dropWaitingFormat p
        (updPort p (fun u =>
          unitTeardown { u with state := .fenced, session := u.session + 1#16, queue := [], suppression := true }) s)))

/-! ## The arbiter (R18 to R21) -/

/-- The requesters in cyclic order (R19). -/
def requesterOrder : List Requester := [.pu .p0, .pu .p1, .pu .p2, .pu .p3, .bte, .clu, .swp]

/-- The requesters counting onward from the one after `r` (R19). -/
def requestersAfter (r : Requester) : List Requester :=
  let later := (requesterOrder.dropWhile (fun x => decide (x ≠ r))).drop 1
  later ++ requesterOrder.take (requesterOrder.length - later.length)

/-- The earliest admitted request of the port that has not yet had its operation (R18). -/
def firstWaiting (s : State) (p : Port) : Option QEntry :=
  (portUnit s p).queue.find? (fun e => decide (e.phase = .waiting))

/-- The sweeper is behind its rate (R96). -/
def sweeperBehind (s : State) : Bool :=
  decide (1 ≤ s.swp.allowance) && decide (s.params.sweepMode ≠ .off) && decide (s.mif.indexState = .ready)

/-- The requester holds an operation (R18, R19). -/
def holdsOperation (s : State) : Requester → Bool
  | .pu p => (firstWaiting s p).isSome
  | .bte => s.bte.held.isSome
  | .clu => !s.clu.updates.isEmpty
  | .swp => sweeperBehind s

/-- The arbiter may grant: the index is READY, no operation is in progress, and no FORMAT or RESTART waits (R19, R21). -/
def mayGrant (s : State) : Bool :=
  decide (s.mif.indexState = .ready) && s.ixc.inProgress.isNone && s.mif.formatWaits.isNone && !s.mif.restartTaken

/-- The requester whose turn is next (R19). -/
@[irreducible] def nextRequester (s : State) : Option Requester :=
  if mayGrant s = true then (requestersAfter s.ixc.lastServed).find? (holdsOperation s) else none

/-- A turn granted: the requester becomes the last one served (R19). -/
def grantTurn (r : Requester) (t : Turn) (s : State) : State :=
  { s with ixc := { s.ixc with lastServed := r, inProgress := some t } }

/-- The operation in progress has ended. -/
def endTurn (s : State) : State := { s with ixc := { s.ixc with inProgress := none } }

/-- A turn at the arbiter by its two events. `grant` gives the state and turn of a grant where this requester is next
and holds such an operation, `finish` does what the operation does; `whole` is the one behind the other (log 2). -/
def runTurn (grant : State → Option (State × Turn)) (finish : Turn → State → State) (mine : Turn → Bool) (st : OpStep)
    (s : State) : State :=
  match st with
  | .grant => match grant s with | some g => g.1 | none => s
  | .finish =>
    match s.ixc.inProgress with
    | some t => if mine t = true then finish t s else s
    | none => s
  | .whole => match grant s with | some g => finish g.2 g.1 | none => s

/-- An operation of the claim unit is in progress: it takes no other event (R44). -/
def cluBusy (s : State) : Bool :=
  match s.ixc.inProgress with
  | some (.entryUpdate _) | some (.freeing _) => true
  | _ => false

/-- An operation of the batch engine is in progress: it takes no other event (R111). -/
def bteBusy (s : State) : Bool :=
  match s.ixc.inProgress with
  | some (.item _) => true
  | _ => false

/-- An operation of the port is in progress at the arbiter (R152, log 25). -/
def portBusy (s : State) (p : Port) : Bool :=
  match s.ixc.inProgress with
  | some (.port q _) => decide (q = p)
  | _ => false

/-- The context has an item to take (R114). -/
def hasItem (c : Context) : Bool :=
  decide (c.phase = .running) && !c.cancelled && decide (c.cursor < c.items.length)

/-- A batch context. -/
def contextGet (s : State) (n : Nat) : Context := tableGet Context.zero s.bte.contexts n

/-- A batch context written. -/
def contextPut (n : Nat) (c : Context) (s : State) : State :=
  { s with bte := { s.bte with contexts := tableSet Context.zero s.bte.contexts n c } }

/-- The context whose item is presented next, counting from the rotation pointer upward (R114). -/
def nextContext (s : State) : Option Nat :=
  ((List.range Config.batchContexts).map (fun i => (s.bte.rotation + i) % Config.batchContexts)).find?
    (fun n => hasItem (contextGet s n))

/-- The batch engine presents its next item when it holds none (R114). -/
@[irreducible] def presentItem (s : State) : State :=
  match s.bte.held with
  | some _ => s
  | none =>
    match nextContext s with
    | some n => { s with bte := { s.bte with held := some n, rotation := (n + 1) % Config.batchContexts } }
    | none => s

/-! ## Arrival (R131 to R137, R142) -/

/-- The bucket number of a repair request is below the bucket count, tested while the index is READY (R10, R134). -/
def bucketInRange (s : State) (r : Request) : Bool :=
  match requestPosition r with
  | some q => decide (s.mif.indexState ≠ .ready) || decide (q.bucket < bucketCount s)
  | none => true

/-- The namespace checks of a namespace-checked kind: permission, write, hold (R137). -/
def namespaceRefusal (s : State) (p : Port) (k : Kind) (ns : Nat) : Option Answer :=
  let u := portUnit s p
  let r := tableGet NsRec.zero s.nst ns
  if (u.privilege ≠ 0#2 ∧ u.nsMap.getLsbD ns = false) ∨ r.state = .disabled then some .denied
  else if r.state = .readOnly ∧ kindWrites k = true then some .readOnly
  else if r.hold = true ∧ kindReleases k = true then some .held
  else none

/-- Checks 5 to 8 on a request of a kind: the request admitted, or the refusal of the first check that fails
(R132, R134 to R137). -/
def accessCheck (s : State) (p : Port) (k : Kind) (f : RequestFrame) : Except Answer Request :=
  match readRequest k f with
  | none => .error .malformed
  | some r =>
    if bucketInRange s r = false then .error .malformed
    else if kindPrivilege k < (portUnit s p).privilege.toNat then .error .denied
    else if kindAllowed k s.mif.indexState = false then .error (.notReady s.mif.indexState)
    else if kindNsChecked k = true then
      match namespaceRefusal s p k f.ns.toNat with
      | some a => .error a
      | none => .ok r
    else .ok r

/-- Checks 4 to 8 (R132, R133); a kind code that names no kind is malformed (R134). -/
def arrivalCheck (s : State) (p : Port) (k : Option Kind) (f : RequestFrame) : Except Answer (Kind × Request) :=
  if (portUnit s p).state = .fenced ∧ k ≠ some .identify ∧ k ≠ some .portStatus then .error .fenced
  else
    match k with
    | none => .error .malformed
    | some k =>
      match accessCheck s p k f with
      | .error a => .error a
      | .ok r => .ok (k, r)

/-- The queue entry of an admitted request (R129, R142, R153). -/
def newEntry (s : State) (p : Port) (k : Kind) (f : RequestFrame) (r : Request) : QEntry :=
  { tag := f.tag, kind := k, ns := f.ns.toNat, request := r, phase := requestPhase p r, context := none,
    mark := (portUnit s p).session, taken := false }

/-- The symbols of a frame keep the millisecond steady (R146). -/
def seeSymbols (p : Port) (s : State) : State := updPort p (fun u => { u with symbolSeen := true }) s

/-- The port takes the arrival of frames: it is not DOWN, no RESTART is taken, and its response list holds fewer than
32 (R131, R143, R177). -/
def takesFrames (s : State) (p : Port) : Bool :=
  !s.mif.restartTaken && decide ((portUnit s p).responses.length < Config.responseLimit)

/-- A frame whose check holds, tested by checks 2 to 8: answered with a refusal, or admitted at the tail of the queue
(R132). The flag says whether it was admitted. -/
@[irreducible] def tryAdmit (p : Port) (code : Byte) (k : Option Kind) (f : RequestFrame) (s : State) : State × Bool :=
  let refuse (a : Answer) (s : State) : State := respond p { kind := code, tag := f.tag, answer := a } s
  if Config.queueEntries ≤ (portUnit s p).queue.length then (refuse .queueFull (countPort p .queueFulls 1 s), false)
  else if (queued s p f.tag).isSome then (refuse .tagInUse s, false)
  else
    match arrivalCheck s p k f with
    | .error a => (refuse a s, false)
    | .ok r => (updPort p (fun u => { u with queue := u.queue ++ [newEntry s p r.1 f r.2] }) s, true)

/-- The arrival of a frame whose check holds (R131, R132). A DOWN port receives none (R147, log 15), and a frame that
the port does not take is discarded without a count (R143, R177). -/
@[irreducible] def arrive (p : Port) (code : Byte) (k : Option Kind) (f : RequestFrame) (s : State) : State × Bool :=
  if (portUnit s p).state = .down then (s, false)
  else if takesFrames s p = false then (seeSymbols p s, false)
  else tryAdmit p code k f (countPort p .framesIn 1 (seeSymbols p s))

/-! ## Taking a request (R136, R142) -/

/-- The block can take a request now: the claim unit and the batch engine take no event within an operation of their
own, and the memory interface none after a RESTART (R44, R111, R177). -/
def blockFree (s : State) : Block → Bool
  | .clu => !cluBusy s
  | .bte => !bteBusy s
  | .mif => !s.mif.restartTaken
  | _ => true

/-- The request is the earliest of its port that its block has not taken (R142, log 31). -/
def firstForBlock (s : State) (p : Port) (e : QEntry) : Bool :=
  ((portUnit s p).queue.takeWhile (fun x => decide (x.tag ≠ e.tag))).all
    (fun x => x.taken || decide (requestOwner p x.request ≠ requestOwner p e.request))

/-- A FORMAT that waits is taken when the operation in progress ends (R19). -/
def notWaiting (s : State) (e : QEntry) : Bool := decide (e.kind ≠ .format) || s.mif.formatWaits.isNone

/-- The queued request of the kind with the tag, where its block can take it. -/
@[irreducible] def takeable (s : State) (p : Port) (k : Kind) (tag : Tag) : Option QEntry :=
  match queued s p tag with
  | none => none
  | some e =>
    if e.kind = k ∧ e.phase = .atBlock ∧ e.taken = false ∧ firstForBlock s p e = true ∧
        blockFree s (requestOwner p e.request) = true ∧ notWaiting s e = true
    then some e else none

/-- A request taken by its block: NOT_READY where the index has left READY since its arrival, and otherwise what its
block does (R136). A request that its block cannot take stays handed over (log 32). -/
def takeRequest (k : Kind) (act : Port → QEntry → State → State) (p : Port) (tag : Tag) (s : State) : State :=
  match takeable s p k tag with
  | none => s
  | some e =>
    if kindAllowed k s.mif.indexState = false then answerEntry p e (.notReady s.mif.indexState) s
    else act p e s

/-- A request that a block takes, by its two events (R142, log 2). -/
def runRequest (k : Kind) (act : Port → QEntry → State → State) (p : Port) (st : RequestStep) (s : State) : State :=
  match st with
  | .whole f =>
    let a := arrive p (kindCode k) (some k) f s
    if a.2 = true then takeRequest k act p f.tag a.1 else a.1
  | .arrive f => (arrive p (kindCode k) (some k) f s).1
  | .take tag => takeRequest k act p tag s

/-- A request answered in the event in which its block takes it (R143). -/
def answering (g : Port → QEntry → State → State × Answer) (p : Port) (e : QEntry) (s : State) : State :=
  answerEntry p e (g p e s).2 (g p e s).1

end Sys2Proof.Machine
end

