-- ==== Sys2Proof/Machine/Index.lean ====
section
/-! DEFINITION. The index family: LOOKUP, PROBE, REF, RELEASE, MOVE, READ_SLOT, DROP and RESTORE, their arrivals and their turns at the arbiter. -/

namespace Sys2Proof.Machine

/-! ## Entries changed by references (R24 to R27, R32 to R35) -/

/-- The sum of a refcount and an increment, saturating at 65,535 (R24). -/
def refSum (refcount : BitVec 16) (n : Nat) : Nat := min Config.refcountMax (refcount.toNat + n)

/-- An entry with its refcount and state written: PINNED at 65,535, else STORED; location and origin namespace kept
(R5, R24, R25). -/
def imageWithRefs (im : SlotImage) (n : Nat) : SlotImage :=
  imageCounted (if n = Config.refcountMax then .pinned else .stored) im.fp (BitVec.ofNat 16 n) im.loc im.ns 0#40

/-- References added to the entry of a slot that is STORED, ZERO or PINNED: a STORED entry takes the saturating sum, a
ZERO entry is resurrected with n, a PINNED entry does not change. The answer is DUPLICATE (R25 to R27, R32, R33). -/
def addReferences (slot : Nat) (st : EntryState) (n : Nat) (s : State) : State × IndexOutcome :=
  let im := slotGet s slot
  match st with
  | .stored =>
    (slotPut slot (imageWithRefs im (refSum im.refcount n)) s,
      .duplicate im.loc (decide (refSum im.refcount n = Config.refcountMax)) false)
  | .zero => (slotPut slot (imageWithRefs im n) s, .duplicate im.loc false true)
  | _ => (s, .duplicate im.loc true false)

/-- The counts of a LOOKUP answered DUPLICATE: LOOKUPS, HITS and HIT_BYTES (R37). -/
def countHit (ns : Nat) (l : Location) (s : State) : State :=
  countNs ns .hitBytes l.length.toNat (countNs ns .hits 1 (countNs ns .lookups 1 s))

/-! ## LOOKUP (R25 to R30) -/

/-- A waiter request within a LOOKUP with WAIT set (R28, R49): parked, or RETRY where the pool is empty. The result is
`none` where the request is parked. On a PENDING entry whose claim number names no record in use, which R44 excludes,
it is answered IN_PROGRESS (log 20). -/
def requestWaiter (w : Waiter) (claim : BitVec 16) (s : State) : State × Option IndexOutcome :=
  if claimInUse (claimGet s claim.toNat) = false then (s, some (.inProgress claim))
  else if waitersInUse s < Config.waiterRecords then (countNs w.ns .lookups 1 (parkWaiter claim.toNat w s), none)
  else (s, some (.retry .waitersFull))

/-- The insert of an absent fingerprint: room test, claim request, PENDING entry (R9, R30, R45). -/
def insertEntry (w : Waiter) (fp : Fingerprint) (s : State) : State × IndexOutcome :=
  match chooseSlot s fp with
  | none => (s, .noRoom)
  | some slot =>
    match freeClaim s with
    | none => (s, .retry .claimsFull)
    | some n =>
      let r := grantRecord s (claimGet s n) slot fp w
      let s' := setOccupancy (s.ixc.occupancy + 1) (slotPut slot (imagePending fp n) (claimPut n r s))
      (countNs w.ns .claims 1 (countNs w.ns .lookups 1 s'), .claimed (claimToken s n r) 0)

/-- What a LOOKUP does with the slot its search matched (R25 to R29). -/
def lookupMatch (w : Waiter) (wait : Bool) (slot : Nat) (s : State) : State × Option IndexOutcome :=
  let im := slotGet s slot
  match imageState im with
  | some .pending => if wait = true then requestWaiter w im.claim s else (s, some (.inProgress im.claim))
  | some .stored =>
    let r := addReferences slot .stored 1 s
    (countHit w.ns im.loc r.1, some r.2)
  | some .zero =>
    let r := addReferences slot .zero 1 s
    (countHit w.ns im.loc r.1, some r.2)
  | some .pinned =>
    let r := addReferences slot .pinned 1 s
    (countHit w.ns im.loc r.1, some r.2)
  | _ => (s, some .suspect)

/-- A LOOKUP, single or as a batch item (R22, R25 to R30). The result is `none` where it parks. -/
@[irreducible] def lookupCore (w : Waiter) (fp : Fingerprint) (wait : Bool) (s : State) : State × Option IndexOutcome :=
  if fp = 0#256 then (s, some .badFingerprint)
  else
    let f := searchIndex fp s
    match f.2 with
    | some slot => lookupMatch w wait slot f.1
    | none =>
      let r := insertEntry w fp f.1
      (r.1, some r.2)

/-! ## PROBE, REF, RELEASE (R31 to R36) -/

/-- The outcome of a PROBE on the slot its search matched (R31). -/
def probeMatch (s : State) (slot : Nat) : IndexOutcome :=
  let im := slotGet s slot
  match imageState im with
  | some .stored => .probeHit .stored im.loc
  | some .zero => .probeHit .zero im.loc
  | some .pinned => .probeHit .pinned im.loc
  | some .pending => .inProgress im.claim
  | _ => .suspect

/-- A PROBE, single or as a batch item (R31). -/
@[irreducible] def probeCore (fp : Fingerprint) (s : State) : State × IndexOutcome :=
  if fp = 0#256 then (s, .badFingerprint)
  else
    let f := searchIndex fp s
    match f.2 with
    | some slot => (f.1, probeMatch f.1 slot)
    | none => (f.1, .probeMiss)

/-- A REF (R32, R33). -/
@[irreducible] def refCore (fp : Fingerprint) (n : Nat) (s : State) : State × IndexOutcome :=
  if fp = 0#256 then (s, .badFingerprint)
  else
    let f := searchIndex fp s
    match f.2 with
    | none => (f.1, .notFound)
    | some slot =>
      match slotState f.1 slot with
      | some .stored => addReferences slot .stored n f.1
      | some .zero => addReferences slot .zero n f.1
      | some .pinned => addReferences slot .pinned n f.1
      | some .pending => (f.1, .inProgress (slotGet f.1 slot).claim)
      | _ => (f.1, .suspect)

/-- A release of n references from a STORED entry that can absorb them: ZERO with the stamp at 0, else STORED
(R24, R34, R35). -/
def imageReleased (im : SlotImage) (n : Nat) (clock : BitVec 40) : SlotImage :=
  if im.refcount.toNat = n then imageCounted .zero im.fp 0#16 im.loc im.ns clock
  else imageCounted .stored im.fp (BitVec.ofNat 16 (im.refcount.toNat - n)) im.loc im.ns 0#40

/-- A release taken from a STORED entry, or refused with UNDERFLOW (R34, R36). -/
def releaseStored (p : Port) (ns slot n : Nat) (s : State) : State × IndexOutcome :=
  let im := slotGet s slot
  if im.refcount.toNat < n then (raiseTo p .underflow s, .underflow)
  else
    let s' := countNs ns .releases 1 (slotPut slot (imageReleased im n s.tmb.clock) s)
    (if im.refcount.toNat = n then countNs ns .zeroed 1 s' else s',
      .released (BitVec.ofNat 16 (im.refcount.toNat - n)))

/-- A RELEASE, single or as a batch item, of port `p` under namespace `ns` (R34 to R36). -/
@[irreducible] def releaseCore (p : Port) (ns : Nat) (fp : Fingerprint) (n : Nat) (s : State) : State × IndexOutcome :=
  if fp = 0#256 then (s, .badFingerprint)
  else
    let f := searchIndex fp s
    match f.2 with
    | none => (f.1, .notFound)
    | some slot =>
      match slotState f.1 slot with
      | some .stored => releaseStored p ns slot n f.1
      | some .zero => (raiseTo p .underflow f.1, .underflow)
      | some .pinned => (f.1, .pinned)
      | some .pending => (f.1, .inProgress (slotGet f.1 slot).claim)
      | _ => (f.1, .suspect)

/-! ## MOVE (R83) -/

/-- The move check and the rewriting of the location, once the entry's own tests have passed (R81, R83). Zero-since is kept
as stored in every state, also where it is absent and damage has left it nonzero: DESIGN CHOICE (log 47). -/
def moveEntry (p : Port) (slot src dst offset length : Nat) (s : State) : State × Answer :=
  if (containerGet s src).state ≠ .closed then (s, .wrongState)
  else
    match placementTest s p dst offset length with
    | some a => (s, a)
    | none =>
      let im := slotGet s slot
      let target : Location :=
        { container := BitVec.ofNat 16 dst, offset := BitVec.ofNat 32 offset, length := BitVec.ofNat 32 length }
      (slotPut slot (imageFresh { im with loc := target, claim := 0#16 }) (departEntry src length (placeChunk dst offset length s)),
        .done .none)

/-- The tests of a MOVE on the matching slot, in their order (R83). -/
def moveMatch (p : Port) (slot src dst offset length : Nat) (s : State) : State × Answer :=
  let im := slotGet s slot
  match imageState im with
  | some .pending => (s, .wrongState)
  | some .suspect => (s, .index .suspect)
  | _ =>
    if im.loc.container.toNat ≠ src then (s, .wrongLocation)
    else if im.loc.length.toNat ≠ length then (s, .lengthMismatch)
    else moveEntry p slot src dst offset length s

/-- A MOVE (R83). -/
@[irreducible] def moveCore (p : Port) (fp : Fingerprint) (src dst offset length : Nat) (s : State) : State × Answer :=
  if fp = 0#256 then (s, .index .badFingerprint)
  else
    let f := searchIndex fp s
    match f.2 with
    | none => (f.1, .index .notFound)
    | some slot => moveMatch p slot src dst offset length f.1

/-! ## READ_SLOT, DROP, RESTORE (R103 to R107) -/

/-- READ_SLOT's answer: the image as stored and the check flag (R104). -/
def readSlotAnswer (s : State) (slot : Nat) : Answer := .done (.slot (slotGet s slot) (imageHolds (slotGet s slot)))

/-- A DROP by the slot's state as read (R105). -/
@[irreducible] def dropCore (slot : Nat) (s : State) : State × Answer :=
  let im := slotGet s slot
  match imageState im with
  | some .stored | some .zero | some .pinned | some .suspect =>
    (setOccupancy (s.ixc.occupancy - 1) (departLocation im.loc (slotPut slot SlotImage.free s)), .done .none)
  | _ => (s, .wrongState)

/-- The search of RESTORE's test 4: both buckets read and every slot but the named one verified and compared, up to the
first other slot that holds the fingerprint (R106). The named slot is SUSPECT, so it is not verified. -/
def searchOthers (fp : Fingerprint) (named : Nat) (s : State) : State × Option Nat :=
  searchFrom fp ((searchSlots (bucketCount s) fp).filter (fun n => decide (n ≠ named))) s

/-- The entry that a RESTORE writes (R107). -/
def restoredImage (r : RestoreBody) : SlotImage := imageCounted r.state r.fp r.refcount r.loc r.ns 0#40

/-- A RESTORE's last test and its write (R84, R106, R107). -/
def restoreEntry (r : RestoreBody) (slot : Nat) (s : State) : State × Answer :=
  match transferTest s r.loc with
  | some a => (s, a)
  | none => (slotPut slot (restoredImage r) (transferEntry (slotGet s slot).loc r.loc s), .done .none)

/-- A RESTORE (R106, R107). -/
@[irreducible] def restoreCore (r : RestoreBody) (s : State) : State × Answer :=
  let slot := positionSlot r.pos
  let bc := bucketCount s
  if r.fp = 0#256 then (s, .index .badFingerprint)
  else if slotState s slot ≠ some .suspect then (s, .wrongState)
  else if r.pos.bucket ≠ homeBucket bc r.fp ∧ r.pos.bucket ≠ alternateBucket bc r.fp then (s, .mismatch)
  else
    let f := searchOthers r.fp slot s
    match f.2 with
    | some _ => (f.1, .mismatch)
    | none => restoreEntry r slot f.1

/-! ## Turns of the port units (R18 to R22) -/

/-- A port's turn granted, where the port is next and the request it holds is of the kind (R18, R19). -/
def grantPort (p : Port) (k : Kind) (s : State) : Option (State × Turn) :=
  match firstWaiting s p with
  | none => none
  | some e =>
    if nextRequester s = some (.pu p) ∧ e.kind = k then some (grantTurn (.pu p) (.port p e) s, .port p e) else none

/-- The turn is this port's, with a request of the kind. -/
def isPortTurn (p : Port) (k : Kind) : Turn → Bool
  | .port q e => decide (q = p) && decide (e.kind = k)
  | _ => false

/-- A port's operation ends: its effect, the end of the turn, and its outcome handed to the port unit (R20, R143). -/
def finishPort (core : QEntry → State → State × Answer) (p : Port) (t : Turn) (s : State) : State :=
  match t with
  | .port _ e => answerEntry p e (core e s).2 (endTurn (core e s).1)
  | _ => s

/-- A LOOKUP's operation ends: answered, or its queue entry PARKED (R28, R129). -/
def finishLookup (p : Port) (t : Turn) (s : State) : State :=
  match t with
  | .port _ e =>
    match e.request with
    | .lookup fp wait =>
      let r := lookupCore { port := p, ns := e.ns, origin := .single e.tag e.mark } fp wait s
      match r.2 with
      | some o => answerEntry p e (.index o) (endTurn r.1)
      | none =>
        if e.mark = (portUnit s p).session then updEntry p e.tag (fun x => { x with phase := .parked }) (endTurn r.1)
        else endTurn r.1
    | _ => endTurn s
  | _ => s

/-- An index outcome as an answer. -/
def indexAnswer (r : State × IndexOutcome) : State × Answer := (r.1, .index r.2)

/-- The operation of a queued PROBE. -/
def probeOf (e : QEntry) (s : State) : State × Answer :=
  match e.request with
  | .probe fp => indexAnswer (probeCore fp s)
  | _ => (s, .malformed)

/-- The operation of a queued REF. -/
def refOf (e : QEntry) (s : State) : State × Answer :=
  match e.request with
  | .ref fp n => indexAnswer (refCore fp n s)
  | _ => (s, .malformed)

/-- The operation of a queued RELEASE of a port. -/
def releaseOf (p : Port) (e : QEntry) (s : State) : State × Answer :=
  match e.request with
  | .release fp n => indexAnswer (releaseCore p e.ns fp n s)
  | _ => (s, .malformed)

/-- The operation of a queued MOVE of a port. -/
def moveOf (p : Port) (e : QEntry) (s : State) : State × Answer :=
  match e.request with
  | .move fp src dst offset length => moveCore p fp src dst offset length s
  | _ => (s, .malformed)

/-- The operation of a queued READ_SLOT. -/
def readSlotOf (e : QEntry) (s : State) : State × Answer :=
  match e.request with
  | .readSlot q => (s, readSlotAnswer s (positionSlot q))
  | _ => (s, .malformed)

/-- The operation of a queued DROP. -/
def dropOf (e : QEntry) (s : State) : State × Answer :=
  match e.request with
  | .drop q => dropCore (positionSlot q) s
  | _ => (s, .malformed)

/-- The operation of a queued RESTORE. -/
def restoreOf (e : QEntry) (s : State) : State × Answer :=
  match e.request with
  | .restore r => restoreCore r s
  | _ => (s, .malformed)

/-! ## The commands -/

/-- LOOKUP: arrival; an admitted request joins the queue in phase WAITING (R22, R132). -/
def execLookup (p : Port) (f : RequestFrame) (s : State) : Result :=
  .next (whenPowered s fun s => (arrive p (kindCode .lookup) (some .lookup) f s).1)

/-- PROBE: arrival (R22, R132). -/
def execProbe (p : Port) (f : RequestFrame) (s : State) : Result :=
  .next (whenPowered s fun s => (arrive p (kindCode .probe) (some .probe) f s).1)

/-- REF: arrival (R22, R132). -/
def execRef (p : Port) (f : RequestFrame) (s : State) : Result :=
  .next (whenPowered s fun s => (arrive p (kindCode .ref) (some .ref) f s).1)

/-- RELEASE: arrival (R22, R132). -/
def execRelease (p : Port) (f : RequestFrame) (s : State) : Result :=
  .next (whenPowered s fun s => (arrive p (kindCode .release) (some .release) f s).1)

/-- MOVE: arrival (R83, R132). -/
def execMove (p : Port) (f : RequestFrame) (s : State) : Result :=
  .next (whenPowered s fun s => (arrive p (kindCode .move) (some .move) f s).1)

/-- READ_SLOT: arrival (R103, R132). -/
def execReadSlot (p : Port) (f : RequestFrame) (s : State) : Result :=
  .next (whenPowered s fun s => (arrive p (kindCode .readSlot) (some .readSlot) f s).1)

/-- DROP: arrival (R103, R132). -/
def execDrop (p : Port) (f : RequestFrame) (s : State) : Result :=
  .next (whenPowered s fun s => (arrive p (kindCode .drop) (some .drop) f s).1)

/-- RESTORE: arrival (R106, R132). -/
def execRestore (p : Port) (f : RequestFrame) (s : State) : Result :=
  .next (whenPowered s fun s => (arrive p (kindCode .restore) (some .restore) f s).1)

/-- LOOKUP_OPERATION (R22, R25 to R30). -/
def execLookupOperation (p : Port) (st : OpStep) (s : State) : Result :=
  .next (whenPowered s (runTurn (grantPort p .lookup) (finishLookup p) (isPortTurn p .lookup) st))

/-- PROBE_OPERATION (R31). -/
def execProbeOperation (p : Port) (st : OpStep) (s : State) : Result :=
  .next (whenPowered s (runTurn (grantPort p .probe) (finishPort probeOf p) (isPortTurn p .probe) st))

/-- REF_OPERATION (R32). -/
def execRefOperation (p : Port) (st : OpStep) (s : State) : Result :=
  .next (whenPowered s (runTurn (grantPort p .ref) (finishPort refOf p) (isPortTurn p .ref) st))

/-- RELEASE_OPERATION (R34). -/
def execReleaseOperation (p : Port) (st : OpStep) (s : State) : Result :=
  .next (whenPowered s (runTurn (grantPort p .release) (finishPort (releaseOf p) p) (isPortTurn p .release) st))

/-- MOVE_OPERATION (R83). -/
def execMoveOperation (p : Port) (st : OpStep) (s : State) : Result :=
  .next (whenPowered s (runTurn (grantPort p .move) (finishPort (moveOf p) p) (isPortTurn p .move) st))

/-- READ_SLOT_OPERATION (R104). -/
def execReadSlotOperation (p : Port) (st : OpStep) (s : State) : Result :=
  .next (whenPowered s (runTurn (grantPort p .readSlot) (finishPort readSlotOf p) (isPortTurn p .readSlot) st))

/-- DROP_OPERATION (R105). -/
def execDropOperation (p : Port) (st : OpStep) (s : State) : Result :=
  .next (whenPowered s (runTurn (grantPort p .drop) (finishPort dropOf p) (isPortTurn p .drop) st))

/-- RESTORE_OPERATION (R106, R107). -/
def execRestoreOperation (p : Port) (st : OpStep) (s : State) : Result :=
  .next (whenPowered s (runTurn (grantPort p .restore) (finishPort restoreOf p) (isPortTurn p .restore) st))

end Sys2Proof.Machine
end

