-- ==== Sys2Proof/Machine/Batches.lean ====
section
/-! DEFINITION. The batch family: batch starts, item operations, the claim unit's messages, cancellation and the batch engine's part of teardown. -/

namespace Sys2Proof.Machine

/-! ## Start (R112, R113) -/

/-- The exclusive OR of the eight 32-bit words of a fingerprint (R113). -/
def fingerprintWord (fp : Fingerprint) : BitVec 32 :=
  (List.range 8).foldl (fun acc i => acc ^^^ fp.extractLsb' (32 * i) 32) 0#32

/-- The check word computed over the items (R113). -/
def checkWordOf (items : List BatchItem) : BitVec 32 :=
  items.foldl (fun acc i => acc ^^^ fingerprintWord i.fp) 0#32

/-- The lowest-numbered FREE context (R112). -/
def freeContext (s : State) : Option Nat :=
  (List.range Config.batchContexts).find? (fun n => decide ((contextGet s n).phase = .free))

/-- The context that a batch start fills (R112). -/
def startedContext (p : Port) (e : QEntry) (b : BatchBody) : Context :=
  { phase := .running, port := p, tag := e.tag, mark := e.mark, kind := b.kind, ns := e.ns, wait := b.wait,
    items := b.items, cursor := 0, outcomes := b.items.map (fun _ => .untaken), parked := 0, cancelled := false,
    withdrawal := false }

/-- A batch start: context, check word, and the context filled; the batch stays queued with the context's number
(R112). The test of the index state is made where the request is taken. -/
def takeBatch (p : Port) (e : QEntry) (s : State) : State :=
  match e.request with
  | .batch b =>
    match freeContext s with
    | none => answerEntry p e (.index (.retry .noContext)) s
    | some n =>
      if b.checkWord ≠ checkWordOf b.items then answerEntry p e .checkFail s
      else
        presentItem
          (contextPut n (startedContext p e b)
            (updEntry p e.tag (fun x => { x with taken := true, context := some n }) s))
  | _ => s

/-! ## The end of a batch (R119, R120) -/

/-- An item's outcome in the response; an item never answered carries NOT_TAKEN (R120). -/
def itemOutcome : ItemPhase → IndexOutcome
  | .answered o => o
  | .untaken => .notTaken
  | .parked => .notTaken

/-- The batch response (R120). -/
def batchAnswer (c : Context) : Answer :=
  if c.cancelled = true then .cancelled c.cursor (c.outcomes.map itemOutcome)
  else .batchDone c.cursor (c.outcomes.map itemOutcome)

/-- A context that has become FINISHED: answered, and FREE in the same event (R120). -/
def finishContext (n : Nat) (s : State) : State :=
  let c := contextGet s n
  contextPut n Context.zero (answer c.port c.tag c.mark (batchAnswer c) s)

/-- What an item operation leaves: at the item count the context is FINISHED with no item parked, else AWAITING (R119). -/
def settleContext (n : Nat) (s : State) : State :=
  let c := contextGet s n
  if c.phase = .running ∧ c.items.length ≤ c.cursor then
    if c.parked = 0 then finishContext n s else contextPut n { c with phase := .awaiting } s
  else s

/-- A context in AWAITING is FINISHED when no item is parked and no withdrawal is outstanding (R119). -/
def completeContext (n : Nat) (s : State) : State :=
  let c := contextGet s n
  if c.phase = .awaiting ∧ c.parked = 0 ∧ c.withdrawal = false then finishContext n s else s

/-! ## Item operations (R114 to R117) -/

/-- The batch engine's turn granted for the item it holds (R114, R115). -/
def grantBte (s : State) : Option (State × Turn) :=
  match s.bte.held with
  | none => none
  | some n =>
    if nextRequester s = some .bte then
      some (grantTurn .bte (.item n) { s with bte := { s.bte with held := none } }, .item n)
    else none

/-- The turn is the batch engine's. -/
def isItemTurn : Turn → Bool
  | .item _ => true
  | _ => false

/-- The work of an item: as a single request of its kind, for the batch's port and namespace (R115). -/
def itemWork (n : Nat) (c : Context) (i : BatchItem) (s : State) : State × Option IndexOutcome :=
  match c.kind with
  | .lookup => lookupCore { port := c.port, ns := c.ns, origin := .item n c.cursor } i.fp c.wait s
  | .probe =>
    let r := probeCore i.fp s
    (r.1, some r.2)
  | .release =>
    let r := releaseCore c.port c.ns i.fp i.n s
    (r.1, some r.2)

/-- The context after an item's operation: outcome or PARKED recorded, cursor advanced (R115, R117). -/
def itemRecorded (c : Context) (o : Option IndexOutcome) : Context :=
  match o with
  | some o => { c with outcomes := c.outcomes.set c.cursor (.answered o), cursor := c.cursor + 1 }
  | none => { c with outcomes := c.outcomes.set c.cursor .parked, cursor := c.cursor + 1, parked := c.parked + 1 }

/-- The item at the cursor of a context taken (R115, R119). -/
def takeItem (n : Nat) (s : State) : State :=
  let c := contextGet s n
  match c.items[c.cursor]? with
  | none => s
  | some i => settleContext n (contextPut n (itemRecorded c (itemWork n c i s).2) (itemWork n c i s).1)

/-- An item operation ends, and the batch engine presents its next item (R114, R115). -/
def finishItem (t : Turn) (s : State) : State :=
  match t with
  | .item n => presentItem (endTurn (takeItem n s))
  | _ => s

/-! ## The claim unit's messages (R111, R118, R122, R123, R125) -/

/-- The context is in use (R110). -/
def contextInUse (c : Context) : Bool :=
  decide (c.phase = .running) || decide (c.phase = .awaiting) || decide (c.phase = .finished)

/-- The message at the head of the claim unit's path left it. -/
def dropMessage (s : State) : State := { s with bte := { s.bte with inbox := s.bte.inbox.drop 1 } }

/-- An item answer taken, where the context is in use, its port is the port carried and the item is PARKED; else dropped
(R118). -/
def takeItemAnswer (ctx idx : Nat) (p : Port) (o : IndexOutcome) (s : State) : State :=
  let c := contextGet s ctx
  if contextInUse c = true ∧ c.port = p ∧ c.outcomes[idx]? = some .parked then
    presentItem
      (completeContext ctx
        (contextPut ctx { c with outcomes := c.outcomes.set idx (.answered o), parked := c.parked - 1 } s))
  else s

/-- The parked items of a withdrawal answer answered WITHDRAWN (R123). -/
def withdrawItems (c : Context) (idxs : List Nat) : Context :=
  idxs.foldl (fun c i =>
    if c.outcomes[i]? = some .parked then
      { c with outcomes := c.outcomes.set i (.answered .withdrawn), parked := c.parked - 1 }
    else c) c

/-- A withdrawal answer taken, where the context has a withdrawal outstanding; else dropped (R123). -/
def takeWithdrawalAnswer (ctx : Nat) (p : Port) (idxs : List Nat) (s : State) : State :=
  let c := contextGet s ctx
  if contextInUse c = true ∧ c.port = p ∧ c.withdrawal = true then
    presentItem (completeContext ctx (contextPut ctx { withdrawItems c idxs with withdrawal := false } s))
  else s

/-- A teardown completion taken: every WITHHELD context of the port is FREE (R125). -/
def takeCompletion (p : Port) (s : State) : State :=
  { s with
    bte :=
      { s.bte with
        contexts := tableMap Context.zero
          (fun _ c => if c.phase = .withheld p then Context.zero else c) s.bte.contexts } }

/-- The context in RUNNING or AWAITING with a port and tag (R122). -/
def findContext (s : State) (p : Port) (tag : Tag) : Option Nat :=
  (s.bte.contexts.find? (fun e => contextInUse e.2 && decide (e.2.port = p) && decide (e.2.tag = tag))).map
    (fun e => e.1)

/-- The context with its cancelled flag set and every item not taken answered NOT_TAKEN (R122). -/
def cancelledContext (c : Context) : Context :=
  { c with
    cancelled := true,
    outcomes := c.outcomes.map (fun o => match o with | .untaken => .answered .notTaken | o => o) }

/-- The operation held at the arbiter withdrawn where it is for a context that a test names (R122, R125). -/
def withdrawHeld (gone : Nat → Bool) (s : State) : State :=
  match s.bte.held with
  | some n => if gone n = true then { s with bte := { s.bte with held := none } } else s
  | none => s

/-- A cancellation of a context: answered CANCELLED with no item parked, else its waiters are asked for (R122). -/
def cancelContext (n : Nat) (s : State) : State :=
  let c := cancelledContext (contextGet s n)
  let s := withdrawHeld (fun m => decide (m = n)) s
  if c.parked = 0 then finishContext n (contextPut n c s)
  else
    let s := contextPut n { c with withdrawal := true, phase := .awaiting } s
    { s with clu := { s.clu with withdrawals := s.clu.withdrawals ++ [(n, c.port)] } }

/-- A cancellation taken, and the CANCEL answered (R122). -/
def takeCancellation (p : Port) (target tag : Tag) (mark : Session) (s : State) : State :=
  match findContext s p target with
  | none => answer p tag mark .tooLate s
  | some n =>
    if (contextGet s n).cancelled = true then answer p tag mark .tooLate s
    else presentItem (cancelContext n (answer p tag mark (.done .none) s))

/-- The message at the head of the claim unit's path, where the batch engine can take it (R111). -/
def headMessage (s : State) : Option BteMessage := if bteBusy s = true then none else s.bte.inbox.head?

/-! ## Teardown (R125) -/

/-- A WITHHELD context, every field cleared (R125). -/
def withheldContext (p : Port) : Context := { Context.zero with phase := .withheld p }

/-- The context is in use by the port. -/
def contextOf (p : Port) (c : Context) : Bool := contextInUse c && decide (c.port = p)

/-- The batch engine's part of a port's teardown: held operation and outstanding withdrawals given up, contexts WITHHELD
(R125). A withdrawal request that the claim unit has not taken is taken back with its withdrawal: DESIGN CHOICE (log 49). -/
def bteTeardownWork (p : Port) (s : State) : State :=
  let s := withdrawHeld (fun n => contextOf p (contextGet s n)) s
  presentItem
    { s with
      bte :=
        { s.bte with
          contexts := tableMap Context.zero
            (fun _ c => if contextOf p c = true then withheldContext p else c) s.bte.contexts },
      clu := { s.clu with withdrawals := s.clu.withdrawals.filter (fun w => decide (w.2 ≠ p)) } }

/-- The batch engine may take the teardown: none of its operations is in progress (R125, R152). -/
def bteMayTear (s : State) (p : Port) : Bool := (portUnit s p).teardownBte && !bteBusy s

/-- The batch engine takes a teardown and reports it (R125, R152). -/
def takeBteTeardown (p : Port) (s : State) : State :=
  evalAdmission p (updPort p (fun u => { u with teardownBte := false }) (bteTeardownWork p s))

/-! ## The commands -/

/-- LOOKUP_BATCH (R112). -/
def execLookupBatch (p : Port) (r : RequestStep) (s : State) : Result :=
  .next (whenPowered s (runRequest .lookupBatch takeBatch p r))

/-- PROBE_BATCH (R112). -/
def execProbeBatch (p : Port) (r : RequestStep) (s : State) : Result :=
  .next (whenPowered s (runRequest .probeBatch takeBatch p r))

/-- RELEASE_BATCH (R112). -/
def execReleaseBatch (p : Port) (r : RequestStep) (s : State) : Result :=
  .next (whenPowered s (runRequest .releaseBatch takeBatch p r))

/-- BATCH_ITEM_OPERATION (R115). -/
def execBatchItemOperation (st : OpStep) (s : State) : Result :=
  .next (whenPowered s (runTurn grantBte finishItem isItemTurn st))

/-- ITEM_ANSWER (R118). -/
def execItemAnswer (s : State) : Result :=
  .next (whenPowered s fun s =>
    match headMessage s with
    | some (.itemAnswer ctx idx p o) => takeItemAnswer ctx idx p o (dropMessage s)
    | _ => s)

/-- BATCH_CANCELLATION (R122). -/
def execBatchCancellation (s : State) : Result :=
  .next (whenPowered s fun s =>
    match headMessage s with
    | some (.cancellation p target tag mark) => takeCancellation p target tag mark (dropMessage s)
    | _ => s)

/-- WITHDRAWAL_ANSWER (R123). -/
def execWithdrawalAnswer (s : State) : Result :=
  .next (whenPowered s fun s =>
    match headMessage s with
    | some (.withdrawalAnswer ctx p idxs) => takeWithdrawalAnswer ctx p idxs (dropMessage s)
    | _ => s)

/-- BTE_TEARDOWN (R125, R152). -/
def execBteTeardown (p : Port) (s : State) : Result :=
  .next (whenPowered s (doWhen (bteMayTear s p) (takeBteTeardown p)))

/-- TEARDOWN_COMPLETION (R125). -/
def execTeardownCompletion (s : State) : Result :=
  .next (whenPowered s fun s =>
    match headMessage s with
    | some (.teardownCompletion p) => takeCompletion p (dropMessage s)
    | _ => s)

end Sys2Proof.Machine
end

