-- ==== Sys2Proof/Machine/Claims.lean ====
section
/-! DEFINITION. The claim family: COMMIT, ABANDON, CANCEL, expiry, the claim unit's two updates, withdrawal requests and its part of teardown. -/

namespace Sys2Proof.Machine

/-! ## Tokens (R46) -/

/-- The claim record a token names, where the token is valid for a request of the port (R46). -/
def validToken (s : State) (p : Port) (t : Token) : Option ClaimRec :=
  let r := claimGet s t.claim.toNat
  if t.startCount = s.mif.startCount ∧ t.claim.toNat < Config.claimRecords ∧ r.phase = .held ∧
      t.generation = r.generation ∧ r.claimant.map (fun w => w.port) = some p
  then some r else none

/-! ## ABANDON, COMMIT and CANCEL taken by the claim unit -/

/-- ABANDON taken (R54). A waiter's CLAIMED is listed before ABANDON's DONE: DESIGN CHOICE (log 33). -/
def takeAbandon (p : Port) (e : QEntry) (s : State) : State :=
  match e.request with
  | .abandon t fp =>
    if fp = 0#256 then answerEntry p e (.index .badFingerprint) s
    else
      match validToken s p t with
      | none => answerEntry p e .late s
      | some _ => answerEntry p e (.done .none) (releaseClaim t.claim.toNat s)
  | _ => s

/-- The record enters SETTLING with the commit details, and its entry update is queued (R56). -/
def settleClaim (e : QEntry) (n : Nat) (l : Location) (s : State) : State :=
  let s :=
    claimPut n
      { claimGet s n with phase := .settling, details := some { loc := l, tag := e.tag, mark := e.mark } } s
  { s with clu := { s.clu with updates := s.clu.updates ++ [.entry n] } }

/-- COMMIT taken: its three tests, then SETTLING; the COMMIT stays queued (R56). -/
def takeCommit (p : Port) (e : QEntry) (s : State) : State :=
  match e.request with
  | .commit t fp l =>
    if fp = 0#256 then answerEntry p e (.index .badFingerprint) s
    else
      match validToken s p t with
      | none => answerEntry p e .late s
      | some r =>
        if fp ≠ r.fp then answerEntry p e .mismatch s
        else settleClaim e t.claim.toNat l (markTaken p e.tag s)
  | _ => s

/-- The waiter record of a parked single LOOKUP (R48, R62). -/
def isSingleWaiter (p : Port) (tag : Tag) (w : Waiter) : Bool :=
  decide (w.port = p) &&
    (match w.origin with
     | .single t _ => decide (t = tag)
     | .item _ _ => false)

/-- The kind is one of the three batch kinds (R109). -/
def isBatchKind (k : Kind) : Bool :=
  decide (k = .lookupBatch) || decide (k = .probeBatch) || decide (k = .releaseBatch)

/-- CANCEL taken: it looks among the requests queued at its own port (R61, R62). -/
def takeCancel (p : Port) (e : QEntry) (s : State) : State :=
  match e.request with
  | .cancel target =>
    match queued s p target with
    | none => answerEntry p e .tooLate s
    | some x =>
      if x.phase = .parked then
        answerEntry p e (.done .none)
          (answerEntry p x (.index .withdrawn) (removeWaiters (isSingleWaiter p target) s))
      else if isBatchKind x.kind = true then
        sendBte (.cancellation p target e.tag e.mark) (markTaken p e.tag s)
      else answerEntry p e .tooLate s
  | _ => s

/-! ## The claim unit's updates at the arbiter (R53, R57 to R59) -/

/-- The update at the head of the claim unit's queue granted its turn; it leaves the queue (R18, R19). -/
def grantClu (pick : Update → Option Turn) (s : State) : Option (State × Turn) :=
  match s.clu.updates with
  | [] => none
  | u :: rest =>
    match pick u with
    | none => none
    | some t =>
      if nextRequester s = some .clu then
        some (grantTurn .clu t { s with clu := { s.clu with updates := rest } }, t)
      else none

/-- The turn of an entry update. -/
def entryTurn : Update → Option Turn
  | .entry n => some (.entryUpdate n)
  | .freeing _ => none

/-- The turn of a freeing update. -/
def freeingTurn : Update → Option Turn
  | .freeing n => some (.freeing n)
  | .entry _ => none

/-- The turn is an entry update's. -/
def isEntryTurn : Turn → Bool
  | .entryUpdate _ => true
  | _ => false

/-- The turn is a freeing update's. -/
def isFreeingTurn : Turn → Bool
  | .freeing _ => true
  | _ => false

/-- The slot is PENDING with the record's claim number and fingerprint (R53, R57). -/
def namesClaim (im : SlotImage) (n : Nat) (fp : Fingerprint) : Bool :=
  decide (imageState im = some .pending) && decide (im.claim = BitVec.ofNat 16 n) && decide (im.fp = fp)

/-- The slot of an update verified; a slot that does not name the claim is rewritten from the record (R53, R57), a SUSPECT
one too: DESIGN CHOICE (log 35). -/
def verifyClaimed (n : Nat) (s : State) : State :=
  let r := claimGet s n
  let s' := verifySlot r.position s
  if namesClaim (slotGet s' r.position) n r.fp = true then s' else slotPut r.position (imagePending r.fp n) s'

/-- The freeing update: the slot freed and the record FREE, or a handover where a waiter has parked meanwhile (R53). -/
def freeClaimed (n : Nat) (s : State) : State :=
  let s := verifyClaimed n s
  match (claimGet s n).waiters with
  | w :: rest => handOver n w rest s
  | [] =>
    claimPut n (freedRecord (claimGet s n))
      (setOccupancy (s.ixc.occupancy - 1) (slotPut (claimGet s n).position SlotImage.free s))

/-- A commit refused by the placement check: the record returns to HELD with its deadline, the COMMIT is answered, and a
deadline already reached expires (R57). -/
def refuseCommit (n : Nat) (p : Port) (d : CommitDetails) (a : Answer) (s : State) : State :=
  let s := answer p d.tag d.mark a (claimPut n { claimGet s n with phase := .held, details := none } s)
  if claimDue s n = true then expireClaim n s else s

/-- The entry a commit writes: STORED with one reference for the claimant and one for each waiter (R58). -/
def committedImage (fp : Fingerprint) (waiters : Nat) (l : Location) (ns : Nat) : SlotImage :=
  imageCounted .stored fp (BitVec.ofNat 16 (1 + waiters)) l (BitVec.ofNat 8 ns) 0#40

/-- The waiters answered DUPLICATE in list order (R58). -/
def answerWaiters (l : Location) (ws : List Waiter) (s : State) : State :=
  ws.foldl (fun s w => answerWaiter w (.duplicate l false false) s) s

/-- The counts of a commit for its waiters: HITS and HIT_BYTES in each waiter's namespace (R59). -/
def countWaiters (l : Location) (ws : List Waiter) (s : State) : State :=
  ws.foldl (fun s w => countNs w.ns .hitBytes l.length.toNat (countNs w.ns .hits 1 s)) s

/-- The counts of a commit (R59). -/
def countCommit (ns : Nat) (l : Location) (ws : List Waiter) (s : State) : State :=
  countWaiters l ws (countNs ns .commitBytes l.length.toNat (countNs ns .commits 1 s))

/-- A commit whose placement passes: the placement applied, the entry written, the record FREE, the counts made, the
waiters and the COMMIT answered (R57 to R59). -/
def passCommit (n : Nat) (w : Waiter) (d : CommitDetails) (s : State) : State :=
  let r := claimGet s n
  let s := placeChunk d.loc.container.toNat d.loc.offset.toNat d.loc.length.toNat s
  let s := slotPut r.position (committedImage r.fp r.waiters.length d.loc w.ns) s
  let s := countCommit w.ns d.loc r.waiters (claimPut n (freedRecord r) s)
  answer w.port d.tag d.mark .committed (answerWaiters d.loc r.waiters s)

/-- The entry update at commit (R57, R58). -/
def commitClaim (n : Nat) (s : State) : State :=
  let s := verifyClaimed n s
  match (claimGet s n).claimant, (claimGet s n).details with
  | some w, some d =>
    match placementTest s w.port d.loc.container.toNat d.loc.offset.toNat d.loc.length.toNat with
    | some a => refuseCommit n w.port d a s
    | none => passCommit n w d s
  | _, _ => s

/-- An update's operation ends. -/
def finishClu (t : Turn) (s : State) : State :=
  match t with
  | .entryUpdate n => endTurn (commitClaim n s)
  | .freeing n => endTurn (freeClaimed n s)
  | _ => s

/-! ## Withdrawal requests and teardown (R64 to R66, R123) -/

/-- The waiter is an item of the port's context (R123). -/
def isItemWaiter (ctx : Nat) (p : Port) (w : Waiter) : Bool :=
  decide (w.port = p) &&
    (match w.origin with
     | .item c _ => decide (c = ctx)
     | .single _ _ => false)

/-- The item index of a waiter of a batch. -/
def waiterItem (w : Waiter) : Option Nat :=
  match w.origin with
  | .item _ idx => some idx
  | .single _ _ => none

/-- A withdrawal request taken: its waiters leave their lists, and the answer lists the item indexes removed (R123). Of
several the earliest sent is taken first: DESIGN CHOICE (log 44). -/
def takeWithdrawal (s : State) : State :=
  match s.clu.withdrawals with
  | [] => s
  | (ctx, p) :: rest =>
    sendBte (.withdrawalAnswer ctx p ((waitersWhere (isItemWaiter ctx p) s).filterMap waiterItem))
      (removeWaiters (isItemWaiter ctx p) { s with clu := { s.clu with withdrawals := rest } })

/-- The claim is the port's, in HELD or SETTLING (R66). -/
def claimOf (p : Port) (r : ClaimRec) : Bool :=
  (decide (r.phase = .held) || decide (r.phase = .settling)) &&
    decide (r.claimant.map (fun w => w.port) = some p)

/-- A claim given up by teardown; a SETTLING one loses its entry update and its commit details first (R66). -/
def giveUpClaim (p : Port) (n : Nat) (s : State) : State :=
  if claimOf p (claimGet s n) = true then
    releaseClaim n
      { s with clu := { s.clu with updates := s.clu.updates.filter (fun u => decide (u ≠ .entry n)) } }
  else s

/-- The claims in the table, in claim-number order. -/
def claimNumbers (s : State) : List Nat := s.clu.claims.map (fun e => e.1)

/-- The claim unit's part of a port's teardown: first its waiters, then its claims (R64 to R66). -/
def cluTeardownWork (p : Port) (s : State) : State :=
  (claimNumbers s).foldl (fun s n => giveUpClaim p n s) (removeWaiters (fun w => decide (w.port = p)) s)

/-- A teardown may be taken by the claim unit: the batch engine has reported, no operation of the port is in progress,
and the claim unit is in none of its own (R44, R64, R152). -/
def cluMayTear (s : State) (p : Port) : Bool :=
  (portUnit s p).teardownClu && !(portUnit s p).teardownBte && !portBusy s p && !cluBusy s

/-- The claim unit takes a teardown: its part, the completion sent to the batch engine, and its report (R64, R125,
R152). -/
def takeCluTeardown (p : Port) (s : State) : State :=
  evalAdmission p
    (updPort p (fun u => { u with teardownClu := false })
      (sendBte (.teardownCompletion p) (cluTeardownWork p s)))

/-! ## The commands -/

/-- COMMIT (R56). -/
def execCommit (p : Port) (r : RequestStep) (s : State) : Result :=
  .next (whenPowered s (runRequest .commit takeCommit p r))

/-- COMMIT_ENTRY_UPDATE (R57 to R59). -/
def execCommitEntryUpdate (st : OpStep) (s : State) : Result :=
  .next (whenPowered s (runTurn (grantClu entryTurn) finishClu isEntryTurn st))

/-- ABANDON (R54). -/
def execAbandon (p : Port) (r : RequestStep) (s : State) : Result :=
  .next (whenPowered s (runRequest .abandon takeAbandon p r))

/-- FREEING_UPDATE (R53). -/
def execFreeingUpdate (st : OpStep) (s : State) : Result :=
  .next (whenPowered s (runTurn (grantClu freeingTurn) finishClu isFreeingTurn st))

/-- CLAIM_EXPIRY: taken for a record in HELD whose deadline is reached, outside the claim unit's own operations (R47,
R55). -/
def execClaimExpiry (n : Nat) (s : State) : Result :=
  .next (whenPowered s (doWhen (claimDue s n && !cluBusy s) (expireClaim n)))

/-- CANCEL (R61, R62). -/
def execCancel (p : Port) (r : RequestStep) (s : State) : Result :=
  .next (whenPowered s (runRequest .cancel takeCancel p r))

/-- WITHDRAWAL_REQUEST (R123). -/
def execWithdrawalRequest (s : State) : Result :=
  .next (whenPowered s (doWhen (!cluBusy s) takeWithdrawal))

/-- CLU_TEARDOWN (R64 to R66, R152). -/
def execCluTeardown (p : Port) (s : State) : Result :=
  .next (whenPowered s (doWhen (cluMayTear s p) (takeCluTeardown p)))

end Sys2Proof.Machine
end

