-- ==== Sys2Proof/Machine/Containers.lean ====
section
/-! DEFINITION. The container family: the five container requests and the container unit's part of teardown, recovery and FORMAT. -/

namespace Sys2Proof.Machine

/-! ## The container requests (R73 to R77) -/

/-- OPEN_CONTAINER: the open limit, the free list, and the container at its head opened (R73). -/
def openContainerWork (p : Port) (_ : QEntry) (s : State) : State × Answer :=
  if fourGet s.ctu.openCount p = Config.openLimit then (s, .openLimit)
  else
    match s.ctu.freeList with
    | [] => (s, .noContainer)
    | c :: rest =>
      let s := containerPut c { containerGet s c with state := .opened, owner := p, fill := 0 } s
      (evalContainersLow
        { s with
          ctu :=
            { s.ctu with freeList := rest, openCount := fourSet s.ctu.openCount p (fourGet s.ctu.openCount p + 1) } },
        .done (.opened c))

/-- CLOSE_CONTAINER by the state of the container (R74). -/
def closeContainerWork (p : Port) (e : QEntry) (s : State) : State × Answer :=
  match e.request with
  | .closeContainer c =>
    let r := containerGet s c
    if r.state ≠ .opened then (s, .wrongState)
    else if r.owner ≠ p then (s, .notOwner)
    else
      let s := containerPut c { r with state := .closed, owner := .p0 } s
      ({ s with ctu := { s.ctu with openCount := fourSet s.ctu.openCount p (fourGet s.ctu.openCount p - 1) } },
        .done .none)
  | _ => (s, .malformed)

/-- RECLAIM: CLOSED, then empty; the container is FREE at the tail of the free list (R75). -/
def reclaimWork (_ : Port) (e : QEntry) (s : State) : State × Answer :=
  match e.request with
  | .reclaim c =>
    let r := containerGet s c
    if r.state ≠ .closed then (s, .wrongState)
    else if r.live ≠ 0 then (s, .notEmpty)
    else
      let s := containerPut c { r with state := .free, fill := 0, bytes := 0 } s
      (evalContainersLow { s with ctu := { s.ctu with freeList := s.ctu.freeList ++ [c] } }, .done .none)
  | _ => (s, .malformed)

/-- The container is CLOSED with live count 0 (R76). -/
def isEmptyClosed (e : Nat × ContainerRec) : Bool := decide (e.2.state = .closed) && decide (e.2.live = 0)

/-- FIND_EMPTY: the first container from start upward that is CLOSED with live count 0 (R76). An unlisted container is
FREE, so only listed ones qualify. -/
def findEmptyWork (_ : Port) (e : QEntry) (s : State) : State × Answer :=
  match e.request with
  | .findEmpty start =>
    (s, .done (.found
      ((s.mem.containers.find? (fun x => decide (start ≤ x.1) && isEmptyClosed x)).map (fun x => x.1))))
  | _ => (s, .malformed)

/-- CONTAINER_STATUS: the record as it stands (R77). -/
def containerStatusWork (_ : Port) (e : QEntry) (s : State) : State × Answer :=
  match e.request with
  | .containerStatus c => (s, .done (.container (containerGet s c)))
  | _ => (s, .malformed)

/-! ## A container request by its events (R88, R142, R143, R153) -/

/-- A container request taken, with its effects made and its outcome fixed and not yet handed over (R88, R153). -/
def fixOutcome (work : Port → QEntry → State → State × Answer) (p : Port) (e : QEntry) (s : State) : State :=
  let r := work p e s
  let s := markTaken p e.tag r.1
  { s with
    ctu :=
      { s.ctu with
        outcomes :=
          s.ctu.outcomes ++ [{ port := p, kind := e.kind, tag := e.tag, mark := e.mark, answer := r.2 }] } }

/-- The outcome is that of a request of the kind, by port and tag. -/
def isOutcome (k : Kind) (p : Port) (tag : Tag) (o : CtuOutcome) : Bool :=
  decide (o.kind = k) && decide (o.port = p) && decide (o.tag = tag)

/-- The earliest outcome fixed for a request of the kind with the tag is handed to its port unit, which makes the response
or drops it (R88, R143, R153). Outcomes of different requests are handed over in any order: DESIGN CHOICE (log 38). -/
def handOutcome (k : Kind) (p : Port) (tag : Tag) (s : State) : State :=
  match s.ctu.outcomes.find? (isOutcome k p tag) with
  | none => s
  | some o =>
    answer o.port o.tag o.mark o.answer
      { s with ctu := { s.ctu with outcomes := s.ctu.outcomes.eraseP (isOutcome k p tag) } }

/-- A container request by its events: answered in the event that takes it, or with its outcome handed over in an event of
its own (R88, R91, R143, log 38). -/
def runContainer (k : Kind) (work : Port → QEntry → State → State × Answer) (p : Port) (st : ContainerStep) (s : State) :
    State :=
  match st with
  | .request r => runRequest k (answering work) p r s
  | .fix tag => takeRequest k (fixOutcome work) p tag s
  | .hand tag => handOutcome k p tag s

/-! ## Teardown (R88) -/

/-- An OPEN container of the departing port closed, its fill and counts kept (R88). -/
def closeOwned (p : Port) (r : ContainerRec) : ContainerRec :=
  if r.state = .opened ∧ r.owner = p then { r with state := .closed, owner := .p0 } else r

/-- The container table with the port's OPEN containers closed. -/
def closeAllOwned (p : Port) (t : List (Nat × ContainerRec)) : List (Nat × ContainerRec) :=
  tableMap ContainerRec.zero (fun _ r => closeOwned p r) t

/-- Index memory with the port's OPEN containers closed; only a changed table is written (R69, R88). -/
def memClosed (p : Port) (m : IndexMemory) : IndexMemory :=
  if closeAllOwned p m.containers = m.containers then m else memContainers (closeAllOwned p m.containers) m

/-- The container unit's part of a port's teardown (R88). Outside READY it reaches no container record: there is no area in
NO_MEMORY and none is read in UNFORMATTED (R171, R172), and while a walk runs this is a DESIGN CHOICE (log 42). -/
def ctuTeardownWork (p : Port) (s : State) : State :=
  { s with
    mem := if s.mif.indexState = .ready then memClosed p s.mem else s.mem,
    ctu := { s.ctu with openCount := fourSet s.ctu.openCount p 0 } }

/-- The container unit may take the teardown: no operation of the port is in progress (R88, R152). -/
def ctuMayTear (s : State) (p : Port) : Bool := (portUnit s p).teardownCtu && !portBusy s p

/-- The container unit takes a teardown and reports it (R88, R152). -/
def takeCtuTeardown (p : Port) (s : State) : State :=
  evalAdmission p (updPort p (fun u => { u with teardownCtu := false }) (ctuTeardownWork p s))

/-! ## Recovery and FORMAT (R89, R90) -/

/-- The counted entries among the slots of the counted modules: STORED, ZERO, PINNED or SUSPECT (R79, R89). -/
def countedLocations (ds : Four Descriptor) (slots : List (Nat × SlotImage)) : List Location :=
  (slots.filter (fun e =>
    (slotNumber ds e.1).isSome &&
      (match imageState e.2 with
       | some .stored | some .zero | some .pinned | some .suspect => true
       | _ => false))).map (fun e => e.2.loc)

/-- The end of a location. -/
def locationEnd (l : Location) : Nat := l.offset.toNat + l.length.toNat

/-- A container's record after recovery, from the counted entries located in it (R89). -/
def recoverContainer (r : ContainerRec) (ls : List Location) : ContainerRec :=
  let top := min Config.containerBytes ((ls.map locationEnd).foldl max 0)
  let closed := r.state ≠ .free ∨ ls ≠ []
  { state := if closed then .closed else .free, owner := .p0, fill := if closed then max r.fill top else 0,
    live := ls.length, bytes := (ls.map (fun l => l.length.toNat)).sum }

/-- The container table after recovery (R89). -/
@[irreducible] def recoverContainers (ds : Four Descriptor) (slots : List (Nat × SlotImage)) (t : List (Nat × ContainerRec)) :
    List (Nat × ContainerRec) :=
  let ls := countedLocations ds slots
  (List.range Config.containerRecords).filterMap (fun c =>
    let r :=
      recoverContainer (tableGet ContainerRec.zero t c) (ls.filter (fun l => decide (l.container.toNat = c)))
    if r = ContainerRec.zero then none else some (c, r))

/-- The FREE containers in ascending number (R71, R89). -/
@[irreducible] def freeContainers (t : List (Nat × ContainerRec)) : List Nat :=
  (List.range Config.containerRecords).filter (fun c =>
    decide ((tableGet ContainerRec.zero t c).state = .free))

/-- The free list and open counts that recovery and FORMAT rebuild from the records (R71, R72, R89, R90). -/
def rebuildCtu (s : State) : State :=
  { s with ctu := { s.ctu with freeList := freeContainers s.mem.containers, openCount := ⟨0, 0, 0, 0⟩ } }

/-! ## The commands -/

/-- CONTAINER_STATUS (R77). -/
def execContainerStatus (p : Port) (r : ContainerStep) (s : State) : Result :=
  .next (whenPowered s (runContainer .containerStatus containerStatusWork p r))

/-- FIND_EMPTY (R76). -/
def execFindEmpty (p : Port) (r : ContainerStep) (s : State) : Result :=
  .next (whenPowered s (runContainer .findEmpty findEmptyWork p r))

/-- OPEN_CONTAINER (R73). -/
def execOpenContainer (p : Port) (r : ContainerStep) (s : State) : Result :=
  .next (whenPowered s (runContainer .openContainer openContainerWork p r))

/-- CLOSE_CONTAINER (R74). -/
def execCloseContainer (p : Port) (r : ContainerStep) (s : State) : Result :=
  .next (whenPowered s (runContainer .closeContainer closeContainerWork p r))

/-- RECLAIM (R75). -/
def execReclaim (p : Port) (r : ContainerStep) (s : State) : Result :=
  .next (whenPowered s (runContainer .reclaim reclaimWork p r))

/-- CTU_TEARDOWN (R88, R152). -/
def execCtuTeardown (p : Port) (s : State) : Result :=
  .next (whenPowered s (doWhen (ctuMayTear s p) (takeCtuTeardown p)))

end Sys2Proof.Machine
end

