-- ==== Sys2Proof/Machine/Ports.lean ====
section
/-! DEFINITION. The port family: PORT_STATUS, SET_NAMESPACE, SET_PORT, ADMIT, EVICT, the first symbol, the millisecond tick, loss and persistence. -/

namespace Sys2Proof.Machine

/-! ## Requests -/

/-- What PORT_STATUS reports of the requesting port (R158). -/
def portReport (s : State) (p : Port) : PortReport :=
  let u := portUnit s p
  { port := p, privilege := u.privilege, state := u.state, states := fourOf (fun q => (portUnit s q).state),
    autoAdmit := u.autoAdmit, suppression := u.suppression, persistenceMet := u.persistenceMet,
    teardownCtu := u.teardownCtu, teardownBte := u.teardownBte, teardownClu := u.teardownClu, nsMap := u.nsMap,
    session := u.session, queued := u.queue.length, openCount := fourGet s.ctu.openCount p, events := u.events }

/-- PORT_STATUS taken (R158). -/
def portStatusWork (p : Port) (_ : QEntry) (s : State) : State × Answer := (s, .done (.portReport (portReport s p)))

/-- A namespace record with the parts carried written (R140). -/
def changedNamespace (r : NsRec) (state : Option NsState) (hold : Option Bool) : NsRec :=
  { state := state.getD r.state, hold := hold.getD r.hold }

/-- A namespace record written in the table and in the settings area (R139, R140). -/
def putNamespace (n : Nat) (r : NsRec) (s : State) : State :=
  { s with
    nst := tableSet NsRec.zero s.nst n r,
    mem := memSettings
      { s.mem.settings with namespaces := tableSet NsRec.zero s.mem.settings.namespaces n r } s.mem }

/-- SET_NAMESPACE taken; with both parts UNCHANGED nothing is changed (R140). -/
def setNamespaceWork (_ : Port) (e : QEntry) (s : State) : State × Answer :=
  match e.request with
  | .setNamespace n state hold =>
    let r := tableGet NsRec.zero s.nst n
    if state = none ∧ hold = none then (s, .done (.namespaceRec r))
    else (putNamespace n (changedNamespace r state hold) s, .done (.namespaceRec (changedNamespace r state hold)))
  | _ => (s, .malformed)

/-- The map and auto-admit flag of a port unit. -/
def portSettingOf (u : PortUnit) : PortSetting := { nsMap := u.nsMap, autoAdmit := u.autoAdmit }

/-- A port unit with the parts carried written (R141). -/
def changedPort (map : Option (BitVec 64)) (auto : Option Bool) (u : PortUnit) : PortUnit :=
  { u with nsMap := map.getD u.nsMap, autoAdmit := auto.getD u.autoAdmit }

/-- SET_PORT's change of one port: its record, the settings area, and automatic admission where the flag is set (R141,
R149). -/
def setOnePort (map : Option (BitVec 64)) (auto : Option Bool) (s : State) (q : Port) : State :=
  let s := updPort q (changedPort map auto) s
  let s :=
    updMem (fun m =>
      memSettings { m.settings with ports := fourSet m.settings.ports q (portSettingOf (portUnit s q)) } m) s
  if auto = some true then evalAdmission q s else s

/-- SET_PORT's change of the ports its target names; with both parts UNCHANGED nothing is changed (R141). -/
def setPorts (target : Option Port) (map : Option (BitVec 64)) (auto : Option Bool) (s : State) : State :=
  if map = none ∧ auto = none then s
  else
    match target with
    | some q => setOnePort map auto s q
    | none => allPorts.foldl (setOnePort map auto) s

/-- SET_PORT taken; the answer carries the target's map and flag, or those of port 0 for ALL (R141). -/
def setPortWork (_ : Port) (e : QEntry) (s : State) : State × Answer :=
  match e.request with
  | .setPort target map auto =>
    let s := setPorts target map auto s
    (s, .done (.portSetting (portSettingOf (portUnit s (target.getD .p0)))))
  | _ => (s, .malformed)

/-- ADMIT taken by the target's port unit (R155). -/
def admitWork (_ : Port) (e : QEntry) (s : State) : State × Answer :=
  match e.request with
  | .admitPort q =>
    if (portUnit s q).state = .fenced ∧ teardownOutstanding (portUnit s q) = false then
      (enterOnline q (updPort q (fun u => { u with suppression := false }) s), .done .none)
    else (s, .wrongState)
  | _ => (s, .malformed)

/-- EVICT taken by the target's port unit (R156). -/
def evictWork (p : Port) (e : QEntry) (s : State) : State × Answer :=
  match e.request with
  | .evict q =>
    if q = p then (s, .wrongState)
    else
      match (portUnit s q).state with
      | .down => (s, .wrongState)
      | .online => (takeEviction q s, .done .none)
      | .fenced => (updPort q (fun u => { u with suppression := true }) s, .done .none)
  | _ => (s, .malformed)

/-! ## The link detector (R146 to R148) -/

/-- A port unit that its first link symbol takes from DOWN to FENCED (R147). -/
def unitFirstSymbol (u : PortUnit) : PortUnit :=
  if u.state = .down then
    { u with state := .fenced, quiet := 0, persistence := 0, persistenceMet := false, symbolSeen := true }
  else u

/-- A steady millisecond's counts: the quiet count is 0, and the persistence count goes up, stopping at 100 (R146, R148).
The next millisecond begins with no symbol seen. -/
def unitSteady (u : PortUnit) : PortUnit :=
  { u with quiet := 0, persistence := min Config.admitPersistence (u.persistence + 1), symbolSeen := false }

/-- A quiet millisecond's counts: the quiet count goes up, and persistence starts over (R146, R148). -/
def unitQuiet (u : PortUnit) : PortUnit :=
  { u with quiet := min 15 (u.quiet + 1), persistence := 0, persistenceMet := false, symbolSeen := false }

/-- The port unit has taken, or has yet to take, the tick that ends the present millisecond (log 11). -/
def unitJudged (b : Bool) (u : PortUnit) : PortUnit := { u with judged := b }

/-- Persistence met, and automatic admission evaluated (R148, R149). -/
def takePersistence (p : Port) (s : State) : State :=
  evalAdmission p (updPort p (fun u => { u with persistenceMet := true }) s)

/-- One more steady millisecond brings the persistence count to 100 (R148). -/
def persistenceDue (u : PortUnit) : Bool := decide (u.persistence + 1 = Config.admitPersistence)

/-- One more quiet millisecond brings the quiet count to the loss window (R146). -/
def lossDue (window : Nat) (u : PortUnit) : Bool := decide (window ≤ u.quiet + 1)

/-- The loss window in force at a port unit: the value of the last change handed over that it has taken, and otherwise the
value that all four have taken (R146, R178). -/
def lossWindow (s : State) (u : Port) : Nat :=
  match s.mif.changes.reverse.find? (fun c => decide (c.param = .lossWindowMs) && fourGet c.units u) with
  | some c => c.value
  | none => s.params.lossWindowMs

/-- A steady millisecond judged by a port unit, with persistence met and admission evaluated in the same event where the
count reaches 100 (R146, R148). -/
def judgeSteady (p : Port) (s : State) : State :=
  doWhen (persistenceDue (portUnit s p)) (takePersistence p) (updPort p unitSteady s)

/-- A quiet millisecond judged by a port unit, with the loss taken in the same event (R146, R148, R151). -/
def judgeQuiet (p : Port) (s : State) : State :=
  doWhen (lossDue (lossWindow s p) (portUnit s p)) (takeLoss p) (updPort p unitQuiet s)

/-- The millisecond just ended, judged by a port unit (R146). In DOWN the counts stay at 0. -/
def judgePort (p : Port) (symbol : Bool) (s : State) : State :=
  if (portUnit s p).state = .down then s
  else if symbol = true ∨ (portUnit s p).symbolSeen = true then judgeSteady p s
  else judgeQuiet p s

/-- A tick at a port unit. One that has judged the millisecond in an event of its own does not judge it again (log 11). -/
def tickPort (symbols : Four Bool) (s : State) (p : Port) : State :=
  if (portUnit s p).judged = true then updPort p (unitJudged false) s else judgePort p (fourGet symbols p) s

/-- The sweeper's allowance at a tick (R96). -/
def tickAllowance (s : State) : Nat :=
  if s.mif.indexState = .ready ∧ s.params.sweepMode ≠ .off then
    min (2 * s.params.sweepRate) (s.swp.allowance + s.params.sweepRate)
  else s.swp.allowance

/-- The counts of the time base and of the blocks it drives, one millisecond on (R47, R92, R96, R163, R177). -/
def tickTime (s : State) : State :=
  { s with
    swp := { s.swp with allowance := tickAllowance s },
    tmb :=
      { s.tmb with
        ms := s.tmb.ms + 1, secondMs := if s.tmb.clockLoaded = true then s.tmb.secondMs + 1 else s.tmb.secondMs },
    stu := { s.stu with timer := s.stu.timer.map (fun t => t + 1) },
    mif := { s.mif with silenceMs := if s.mif.silenced = true then s.mif.silenceMs + 1 else s.mif.silenceMs } }

/-- A millisecond tick: the millisecond just ended is judged at each port, which takes a loss or its persistence in the
same event, and the time counts go on (R146, R148). The ports are taken in the order of their numbers (log 11). -/
def tick (symbols : Four Bool) (s : State) : State := tickTime (allPorts.foldl (tickPort symbols) s)

/-- The port unit can still judge the present millisecond: it has not judged it, and its port is not DOWN. -/
def mayJudge (u : PortUnit) : Bool := !u.judged && decide (u.state ≠ .down)

/-- The tick ends a quiet millisecond that gives the port loss (R146). -/
def mayLose (s : State) (p : Port) : Bool :=
  mayJudge (portUnit s p) && !(portUnit s p).symbolSeen && lossDue (lossWindow s p) (portUnit s p)

/-- A port unit's own share of the tick, taken ahead of the tick's command: LOSS and PERSISTENCE_MET (log 11). -/
def judgeAhead (p : Port) (judge : State → State) (s : State) : State := updPort p (unitJudged true) (judge s)

/-! ## The commands -/

/-- PORT_STATUS (R158). -/
def execPortStatus (p : Port) (r : RequestStep) (s : State) : Result :=
  .next (whenPowered s (runRequest .portStatus (answering portStatusWork) p r))

/-- SET_NAMESPACE (R140). -/
def execSetNamespace (p : Port) (r : RequestStep) (s : State) : Result :=
  .next (whenPowered s (runRequest .setNamespace (answering setNamespaceWork) p r))

/-- SET_PORT (R141). -/
def execSetPort (p : Port) (r : RequestStep) (s : State) : Result :=
  .next (whenPowered s (runRequest .setPort (answering setPortWork) p r))

/-- ADMIT (R155). -/
def execAdmit (p : Port) (r : RequestStep) (s : State) : Result :=
  .next (whenPowered s (runRequest .admitPort (answering admitWork) p r))

/-- EVICT (R156). -/
def execEvict (p : Port) (r : RequestStep) (s : State) : Result :=
  .next (whenPowered s (runRequest .evict (answering evictWork) p r))

/-- FIRST_SYMBOL (R147). -/
def execFirstSymbol (p : Port) (s : State) : Result :=
  .next (whenPowered s (updPort p unitFirstSymbol))

/-- MILLISECOND_TICK (R146). -/
def execMillisecondTick (symbols : Four Bool) (s : State) : Result :=
  .next (whenPowered s (tick symbols))

/-- LOSS: the port unit's share of the tick that ends a quiet millisecond and gives loss (R146, R148, R151, log 11). -/
def execLoss (p : Port) (s : State) : Result :=
  .next (whenPowered s (doWhen (mayLose s p) (judgeAhead p (judgeQuiet p))))

/-- PERSISTENCE_MET: the port unit's share of the tick that ends the hundredth steady millisecond (R148, R149, log 11). -/
def execPersistenceMet (p : Port) (s : State) : Result :=
  .next (whenPowered s
    (doWhen (mayJudge (portUnit s p) && persistenceDue (portUnit s p)) (judgeAhead p (judgeSteady p))))

end Sys2Proof.Machine
end

