-- ==== Sys2Proof/Machine/Stats.lean ====
section
/-! DEFINITION. The counters and notices family: STATS, SNAPSHOT, the interval end, EVENTS and SET_EVENT_MASK. -/

namespace Sys2Proof.Machine

/-- The ten namespace counters, in the order of the rows of R160's table: DESIGN CHOICE (log 41). -/
def allNsCounters : List NsCounter :=
  [.lookups, .hits, .hitBytes, .claims, .commits, .commitBytes, .releases, .zeroed, .purges, .purgeBytes]

/-- The four port counters, in the order of the rows of R160's table: DESIGN CHOICE (log 41). -/
def allPortCounters : List PortCounter := [.framesIn, .framesBad, .queueFulls, .expiredClaims]

/-- What STATS reports: the sequence number, the snapshot counters of the namespace carried and those of the requesting
port (R165). The order within each group is log 41. -/
def statsReport (s : State) (p : Port) (ns : Nat) : Values :=
  .stats s.stu.sequence
    (allNsCounters.map (fun c => tableGet Counter.zero s.stu.snap (nsCounter ns c)))
    (allPortCounters.map (fun c => tableGet Counter.zero s.stu.snap (portCounter p c)))

/-- STATS taken (R165). -/
def statsWork (p : Port) (e : QEntry) (s : State) : State × Answer := (s, .done (statsReport s p e.ns))

/-- SNAPSHOT taken by the mode (R164). -/
def snapshotWork (_ : Port) (_ : QEntry) (s : State) : State × Answer :=
  match s.params.statsMode with
  | .manual => (takeSnapshot s, .done (.sequence (s.stu.sequence + 1#32)))
  | .interval => (s, .wrongState)

/-- The interval timer has reached the interval (R163). -/
def intervalDue (s : State) : Bool :=
  match s.stu.timer with
  | none => false
  | some t =>
    decide (s.mif.indexState = .ready) && decide (s.params.statsMode = .interval) &&
      decide (s.params.statsIntervalS * 1000 ≤ t)

/-- The interval timer started from 0. -/
def restartTimer (s : State) : State := { s with stu := { s.stu with timer := some 0 } }

/-- EVENTS taken: the set as it stands and the last signalled values; the set is emptied (R168). -/
def eventsWork (p : Port) (_ : QEntry) (s : State) : State × Answer :=
  let u := portUnit s p
  (updPort p (fun u => unitAttn { u with events := 0#13 }) s,
    .done (.eventSet u.events u.occSignalled u.lowSignalled))

/-- The mask and edge modes written, and the line re-evaluated (R169). -/
def unitMask (mask : BitVec 13) (occ low : Option EdgeMode) (u : PortUnit) : PortUnit :=
  unitAttn { u with mask := mask, occEdge := occ.getD u.occEdge, lowEdge := low.getD u.lowEdge }

/-- SET_EVENT_MASK taken (R169). -/
def eventMaskWork (p : Port) (e : QEntry) (s : State) : State × Answer :=
  match e.request with
  | .setEventMask mask occ low =>
    let u := unitMask mask occ low (portUnit s p)
    (updPort p (unitMask mask occ low) s, .done (.eventMask u.mask u.occEdge u.lowEdge))
  | _ => (s, .malformed)

/-- EVENTS (R168). -/
def execEvents (p : Port) (r : RequestStep) (s : State) : Result :=
  .next (whenPowered s (runRequest .events (answering eventsWork) p r))

/-- SET_EVENT_MASK (R169). -/
def execSetEventMask (p : Port) (r : RequestStep) (s : State) : Result :=
  .next (whenPowered s (runRequest .setEventMask (answering eventMaskWork) p r))

/-- STATS (R165). -/
def execStats (p : Port) (r : RequestStep) (s : State) : Result :=
  .next (whenPowered s (runRequest .stats (answering statsWork) p r))

/-- SNAPSHOT (R164). -/
def execSnapshot (p : Port) (r : RequestStep) (s : State) : Result :=
  .next (whenPowered s (runRequest .snapshot (answering snapshotWork) p r))

/-- INTERVAL_END: a snapshot, and the timer starts again from 0 (R163). -/
def execIntervalEnd (s : State) : Result :=
  .next (whenPowered s (doWhen (intervalDue s) fun s => restartTimer (takeSnapshot s)))

end Sys2Proof.Machine
end

