-- ==== Sys2Proof/Machine/Start.lean ====
section
/-! DEFINITION. The memory interface family: power-on and power loss, recovery, FORMAT, RESTART, the index clock, parameters, IDENTIFY and INDEX_STATUS. -/

namespace Sys2Proof.Machine

/-! ## Module slots and the start (R171, R172) -/

/-- The statuses of the module slots from one on, where `counting` says that no slot before was unfitted or invalid
(R171). -/
def statusFrom (counting : Bool) : List Descriptor → List ModuleStatus
  | [] => []
  | d :: rest =>
    if descriptorValid d = false then .invalid :: statusFrom false rest
    else if d.size = 0#8 then .unfitted :: statusFrom false rest
    else (if counting = true then .counted else .ignored) :: statusFrom counting rest

/-- The status of a module slot (R171). -/
def moduleStatus (ds : Four Descriptor) (m : Port) : ModuleStatus :=
  (statusFrom true (fourList ds)).getD (portNumber m) .invalid

/-- The index state that follows the read of descriptors and header (R171, R172). -/
def startState (ds : Four Descriptor) (m : IndexMemory) : IndexState :=
  if capacityOf ds = 0 then .noMemory
  else if headerValid m.header = true ∧ m.header.capacity.toNat = capacityOf ds then .recovering
  else .unformatted

/-- What a module holds beyond its slots, by its module slot (R173). -/
def reservedOf (m : IndexMemory) : Port → Reserved
  | .p0 =>
    { header := m.header, settings := m.settings, settingsCheck := m.settingsCheck, containers := m.containers,
      containersCheck := m.containersCheck }
  | .p1 => m.region1
  | .p2 => m.region2
  | .p3 => m.region3

/-- The slots of the module in one module slot, as they are placed when it stands in another. -/
def moduleSlotsAt (source target : Nat) (t : List (Nat × SlotImage)) : List (Nat × SlotImage) :=
  (t.filter (fun e =>
    decide (source * Config.moduleSpan ≤ e.1) && decide (e.1 < (source + 1) * Config.moduleSpan))).map
    (fun e => (target * Config.moduleSpan + (e.1 - source * Config.moduleSpan), e.2))

/-- What the module that now stands in a slot brings from the slot it stood in; one from outside reads as a module that
nothing has written (log 5, log 6). -/
def broughtSlots (stood : Four (Option Port)) (t : List (Nat × SlotImage)) (p : Port) : List (Nat × SlotImage) :=
  match fourGet stood p with
  | some q => moduleSlotsAt (portNumber q) (portNumber p) t
  | none => []

/-- The reserved region that the module in a slot brings. -/
def broughtRegion (stood : Four (Option Port)) (m : IndexMemory) (p : Port) : Reserved :=
  match fourGet stood p with
  | some q => reservedOf m q
  | none => Reserved.blank

/-- Index memory with its modules moved: each keeps its slots and what it holds beyond them, and slots are numbered by the
module slot it stands in now (R171, R172). -/
def moveModules (stood : Four (Option Port)) (m : IndexMemory) : IndexMemory :=
  if stood = StartInputs.unmoved then m
  else
    IndexMemory.ofSlots (allPorts.flatMap (broughtSlots stood m.slots)) (broughtRegion stood m .p0)
      (broughtRegion stood m .p1) (broughtRegion stood m .p2) (broughtRegion stood m .p3)

/-- Every block reset, straps and descriptors read, and the modules read where they stand now, their contents kept (R128,
R159, R171, R172). -/
def startPart (inputs : StartInputs) (s : State) : State :=
  let m := moveModules inputs.stood s.mem
  State.afterReset s.pending s.linkOut m inputs (startState inputs.descriptors m)

/-! ## Entering READY (R174) -/

/-- The index becomes READY in one event (R95, R163, R174). -/
def enterReady (s : State) : State :=
  let s :=
    { s with
      mif := { s.mif with indexState := .ready }, swp := { s.swp with cursor := 0, allowance := 0 },
      stu := { s.stu with timer := if s.params.statsMode = .interval then some 0 else none } }
  raiseAll .indexReady (evalContainersLow (evalOccupancy s))

/-! ## Recovery (R89, R175): what each step leaves in index memory -/

/-- Step 1: the start count in the header goes up by 1 (R175). -/
def recoverStartCount (m : IndexMemory) : IndexMemory :=
  memHeader (fun h => { h with startCount := h.startCount + 1#16 }) m

/-- The clock that recovery loads: the saved value plus 60, at most 2^40 - 1 (R92, R175). -/
def resumedClock (saved : BitVec 40) : BitVec 40 :=
  BitVec.ofNat 40 (min Config.clockMax (saved.toNat + Config.clockSaveSeconds))

/-- Step 2: the resumed clock written to the header (R93, R175). -/
def recoverClock (m : IndexMemory) : IndexMemory := memHeader (fun h => { h with clock := resumedClock h.clock }) m

/-- The settings check holds (R173). -/
def settingsHold (m : IndexMemory) : Bool := decide (m.settingsCheck = settingsCheckOf m.settings)

/-- The defaults that FORMAT writes: parameters, namespaces, maps and flags (R176). -/
def defaultSettings : Settings :=
  { params := Params.defaults, namespaces := [],
    ports := ⟨⟨0#64, false⟩, ⟨0#64, false⟩, ⟨0#64, false⟩, ⟨0#64, false⟩⟩ }

/-- Step 3: defaults written back where the settings check fails (R175). -/
def recoverSettings (m : IndexMemory) : IndexMemory :=
  if settingsHold m = true then m else memSettings defaultSettings m

/-- The area check holds (R173). -/
def areaHolds (m : IndexMemory) : Bool := decide (m.containersCheck = areaCheck m.containers)

/-- Step 4: the container records as stored, or all FREE where the area check fails (R175). -/
def readContainers (m : IndexMemory) : List (Nat × ContainerRec) := if areaHolds m = true then m.containers else []

/-- The slot walk on one image: PENDING is freed, a state field of none of the six codes becomes SUSPECT (R175). -/
def walkImage (im : SlotImage) : SlotImage :=
  match imageState im with
  | some .pending => SlotImage.free
  | none => imageSuspect im
  | some _ => im

/-- The place is of a slot that a walk has reached: in a counted module, its number below `limit` where one is given. -/
def walked (ds : Four Descriptor) (limit : Option Nat) (k : Nat) : Bool :=
  match slotNumber ds k with
  | none => false
  | some n =>
    match limit with
    | none => true
    | some l => decide (n < l)

/-- Step 5: the slots walked (R175). -/
def recoverSlots (ds : Four Descriptor) (limit : Option Nat) (m : IndexMemory) : IndexMemory :=
  { m with
    slots := tableMap SlotImage.free (fun k im => if walked ds limit k = true then walkImage im else im) m.slots }

/-- A slot that the walk writes SUSPECT (R175). -/
def walkFinds (ds : Four Descriptor) (m : IndexMemory) : Bool :=
  m.slots.any (fun e => walked ds none e.1 && decide (imageState e.2 = none))

/-- Step 6's count: the non-FREE slots of the counted modules (R11, R175). -/
def occupancyOf (ds : Four Descriptor) (m : IndexMemory) : Nat :=
  m.slots.countP (fun e => (slotNumber ds e.1).isSome && decide (imageState e.2 ≠ some .free))

/-- Step 6's containers, rebuilt from the records of step 4 and the slots, and written (R89, R175). -/
def recoverArea (ds : Four Descriptor) (m : IndexMemory) : IndexMemory :=
  memContainers (recoverContainers ds m.slots (readContainers m)) m

/-- A walk's memory step, done where the walk had come so far. -/
def stepIf (b : Bool) (g : IndexMemory → IndexMemory) (m : IndexMemory) : IndexMemory := if b = true then g m else m

/-- The slots that a walk cut at `w` has done, where the slots are its step `n` (log 19). -/
def walkLimit (w : WalkPoint) (n : Nat) : Option Nat := if n ≤ w.stage then none else some w.slot

/-- What a recovery cut at `w` leaves in index memory: start count, clock and settings as the first three steps, the
slots at step 5 with those below `w.slot` before its end, the containers at step 6 (R175, log 19). -/
def cutRecovery (ds : Four Descriptor) (w : WalkPoint) (m : IndexMemory) : IndexMemory :=
  let m := stepIf (decide (1 ≤ w.stage)) recoverStartCount m
  let m := stepIf (decide (2 ≤ w.stage)) recoverClock m
  let m := stepIf (decide (3 ≤ w.stage)) recoverSettings m
  let m := stepIf (decide (4 ≤ w.stage)) (recoverSlots ds (walkLimit w 5)) m
  stepIf (decide (6 ≤ w.stage)) (recoverArea ds) m

/-- The settings loaded into the blocks that own them (R175). -/
def loadSettings (v : Settings) (s : State) : State :=
  updPorts
    (fun p u => { u with nsMap := (fourGet v.ports p).nsMap, autoAdmit := (fourGet v.ports p).autoAdmit })
    { s with params := v.params, nst := v.namespaces }

/-- Recovery's first three steps: start count, clock and settings, and then automatic admission (R149, R175). -/
def recoverHeader (s : State) : State :=
  let m := recoverClock (recoverStartCount s.mem)
  let s :=
    { s with
      mem := recoverSettings m,
      mif :=
        { s.mif with
          startCount := m.header.startCount, settingsDefaulted := !settingsHold m },
      tmb := { s.tmb with clock := m.header.clock, clockLoaded := true, secondMs := 0 } }
  evalAdmissions (loadSettings s.mem.settings s)

/-- Recovery's last three steps: container table, slots and counts (R89, R175). -/
def recoverIndex (s : State) : State :=
  let ds := s.mif.descriptors
  let s := { s with mif := { s.mif with containerRebuilt := !areaHolds s.mem } }
  let s := if walkFinds ds s.mem = true then raiseAll .suspectFound s else s
  let m := recoverSlots ds none s.mem
  rebuildCtu { s with mem := recoverArea ds m, ixc := { s.ixc with occupancy := occupancyOf ds m } }

/-- Recovery, from RECOVERING to READY (R175). -/
def recover (s : State) : State := enterReady (recoverIndex (recoverHeader s))

/-- Recovery runs in RECOVERING; a RESTART ends it (R175, R177). -/
def mayRecover (s : State) : Bool := decide (s.mif.indexState = .recovering) && !s.mif.restartTaken

/-! ## FORMAT (R21, R176) -/

/-- The tests of a FORMAT in READY: no claim record in use, no container OPEN, no batch context in use (R176). -/
def formatTests (s : State) : Bool :=
  s.clu.claims.all (fun e => !claimInUse e.2) &&
    s.mem.containers.all (fun e => decide (e.2.state ≠ .opened)) &&
    s.bte.contexts.all (fun e =>
      decide (e.2.phase ≠ .running) && decide (e.2.phase ≠ .awaiting) && decide (e.2.phase ≠ .finished))

/-- The start count that a FORMAT will write: one above that in force in READY, or above that of a valid header; 0 after
an invalid one (R176). -/
def formatStartCount (s : State) : BitVec 16 :=
  if s.mif.indexState = .ready then s.mif.startCount + 1#16
  else if headerValid s.mem.header = true then s.mem.header.startCount + 1#16
  else 0#16

/-- Every request of a port that waits for an operation answered NOT_READY (R21), in queue order: DESIGN CHOICE
(log 33). -/
def refuseWaiting (s : State) (p : Port) : State :=
  ((portUnit s p).queue.filter (fun e => decide (e.phase = .waiting))).foldl
    (fun s e => answerEntry p e (.notReady .formatting) s) s

/-- FORMATTING entered: the format mark cleared, the interval timer stopped, the level conditions false, held operations
dropped, and the waiting index requests answered NOT_READY (R21, R163, R174, R176). -/
def enterFormatting (p : Port) (e : QEntry) (s : State) : State :=
  let s :=
    { s with
      mif :=
        { s.mif with
          indexState := .formatting, formatWaits := none,
          formatJob := some { port := p, tag := e.tag, mark := e.mark, startCount := formatStartCount s } },
      mem := memHeader (fun h => { h with mark := 0#32 }) s.mem,
      stu := { s.stu with timer := none },
      clu := { s.clu with updates := [] }, bte := { s.bte with held := none } }
  allPorts.foldl refuseWaiting (evalContainersLow (evalOccupancy (markTaken p e.tag s)))

/-- A FORMAT taken in READY with no operation in progress, or in UNFORMATTED (R176). -/
def takeFormatNow (p : Port) (e : QEntry) (s : State) : State :=
  if s.mif.indexState = .ready ∧ formatTests s = false then
    answerEntry p e .wrongState { s with mif := { s.mif with formatWaits := none } }
  else enterFormatting p e s

/-- FORMAT taken by the memory interface: in READY it waits for the operation in progress (R19, R176). -/
def takeFormat (p : Port) (e : QEntry) (s : State) : State :=
  if s.mif.indexState = .ready ∧ s.ixc.inProgress.isSome = true then
    { s with mif := { s.mif with formatWaits := some (p, e.tag) } }
  else takeFormatNow p e s

/-- The FORMAT that waits, once no operation is in progress (R19, R176). -/
def waitingFormat (s : State) : Option (Port × QEntry) :=
  match s.mif.formatWaits with
  | none => none
  | some (p, tag) =>
    if s.ixc.inProgress.isNone = true ∧ s.mif.restartTaken = false then (queued s p tag).map (fun e => (p, e)) else none

/-- Step 2 of the FORMAT walk: the slots of the counted modules written FREE (R176). -/
def formatSlots (ds : Four Descriptor) (limit : Option Nat) (m : IndexMemory) : IndexMemory :=
  { m with slots := m.slots.filter (fun e => !walked ds limit e.1) }

/-- Step 3 in index memory: every container FREE (R90, R176). -/
def formatArea (m : IndexMemory) : IndexMemory := memContainers [] m

/-- Step 4 in index memory: the settings area with the defaults (R176). -/
def formatSettings (m : IndexMemory) : IndexMemory := memSettings defaultSettings m

/-- Step 5: the header, its format mark written last (R176). -/
def formatHeader (ds : Four Descriptor) (startCount : BitVec 16) (m : IndexMemory) : IndexMemory :=
  memHeader
    (fun _ =>
      { mark := Config.formatMark, capacity := BitVec.ofNat 32 (capacityOf ds), startCount := startCount,
        clock := 0#40, check := 0#16 }) m

/-- What a FORMAT cut at `w` leaves in index memory: the mark is cleared from the start, the slots are its step 1,
containers step 2, settings step 3 (R176, log 19). -/
def cutFormat (ds : Four Descriptor) (w : WalkPoint) (m : IndexMemory) : IndexMemory :=
  let m := formatSlots ds (walkLimit w 1) m
  let m := stepIf (decide (2 ≤ w.stage)) formatArea m
  stepIf (decide (3 ≤ w.stage)) formatSettings m

/-- The FORMAT walk done in every block (R11, R90, R92, R95, R128, R139, R176, R178, R179). The settings-defaulted and
container-rebuilt flags are cleared with it, not when FORMAT is taken: DESIGN CHOICE (log 45). -/
def formatBlocks (startCount : BitVec 16) (s : State) : State :=
  let ds := s.mif.descriptors
  rebuildCtu
    (loadSettings defaultSettings
      { s with
        mem := formatHeader ds startCount (formatSettings (formatArea (formatSlots ds none s.mem))),
        ixc := { s.ixc with occupancy := 0 }, swp := { cursor := 0, passCount := 0#32, allowance := 0 },
        tmb := { s.tmb with clock := 0#40, clockLoaded := true, secondMs := 0 },
        mif :=
          { s.mif with
            startCount := startCount, settingsDefaulted := false, containerRebuilt := false, formatJob := none } })

/-- The FORMAT walk's end: READY, and FORMAT answered DONE in that event (R174, R176). -/
def formatWalk (j : FormatJob) (s : State) : State :=
  answer j.port j.tag j.mark (.done .none) (enterReady (formatBlocks j.startCount s))

/-! ## The index clock (R92, R93) -/

/-- The clock's value written into the header (R93). -/
def saveClock (s : State) : State := updMem (memHeader (fun h => { h with clock := s.tmb.clock })) s

/-- The clock has reached a value 60 above the value last written (R93). -/
def clockSaveDue (s : State) : Bool :=
  s.tmb.clockLoaded && decide (s.mem.header.clock.toNat + Config.clockSaveSeconds ≤ s.tmb.clock.toNat)

/-- The clock one second on; at 2^40 - 1 it stays (R92). A save that is due is made first (log 30). -/
def advanceClock (s : State) : State :=
  let s := doWhen (clockSaveDue s) saveClock s
  { s with
    tmb :=
      { s.tmb with
        clock := BitVec.ofNat 40 (min Config.clockMax (s.tmb.clock.toNat + 1)),
        secondMs := s.tmb.secondMs - Config.secondMs } }

/-- A second of the clock has passed (R92). -/
def secondPassed (s : State) : Bool := s.tmb.clockLoaded && decide (Config.secondMs ≤ s.tmb.secondMs)

/-! ## RESTART and power (R93, R159, R177) -/

/-- What a walk that is ended leaves in index memory (R175, R176). -/
def cutWalk (w : WalkPoint) (s : State) : State :=
  match s.mif.indexState with
  | .recovering => updMem (cutRecovery s.mif.descriptors w) s
  | .formatting => updMem (cutFormat s.mif.descriptors w) s
  | _ => s

/-- RESTART taken: answered DONE, and from then on no frame's arrival is taken (R177). -/
def takeRestart (p : Port) (e : QEntry) (s : State) : State :=
  let s := answerEntry p e (.done .none) s
  { s with mif := { s.mif with restartTaken := true } }

/-- The last frame of a transmitter that finishes its responses (R143, R177). -/
def lastFrame (u : PortUnit) (out : List Byte) : List Byte :=
  match (u.finishing.toList ++ u.responses).getLast? with
  | some r => responseBytes r
  | none => out

/-- The transmitters finish the responses in their lists (R177). -/
def flushResponses (s : State) : State :=
  { s with linkOut := fourOf (fun p => lastFrame (portUnit s p) (fourGet s.linkOut p)) }

/-- The RESTART's reset in its order: responses finished, clock saved where it has been loaded, transmitters silenced,
every block reset (R93, R177). -/
def restartPart (inputs : StartInputs) (w : WalkPoint) (s : State) : State :=
  let s := cutWalk w (flushResponses s)
  let s := startPart inputs (doWhen s.tmb.clockLoaded saveClock s)
  { s with mif := { s.mif with silenced := true, silenceMs := 0 } }

/-- The reset of a RESTART waits for the operation in progress (R177). -/
def mayReset (s : State) : Bool := s.mif.restartTaken && s.ixc.inProgress.isNone

/-- Supply lost: index memory keeps what was written, and nothing else is kept (R3, R93, log 27). -/
def losePower (w : WalkPoint) (s : State) : State :=
  let s := cutWalk w s
  { State.afterReset s.pending s.linkOut s.mem unfittedInputs .noMemory with powered := false }

/-! ## Parameters (R97, R163, R178) -/

/-- A parameter written to the settings area (R173, R178). -/
def writeParam (q : Param) (v : Nat) (s : State) : State :=
  updMem (fun m => memSettings { m.settings with params := paramSet m.settings.params q v } m) s

/-- A parameter put in force at its owner (R178). -/
def forceParam (q : Param) (v : Nat) (s : State) : State := { s with params := paramSet s.params q v }

/-- The changes of parameters handed over and not wholly taken, replaced. -/
def setChanges (l : List ParamChange) (s : State) : State := { s with mif := { s.mif with changes := l } }

/-- The interval timer after a change of STATS_MODE or STATS_INTERVAL_S: from 0 in INTERVAL while the index is READY,
stopped in MANUAL (R163). -/
def retimed (s : State) : State :=
  { s with
    stu :=
      { s.stu with
        timer := if s.params.statsMode = .interval ∧ s.mif.indexState = .ready then some 0 else none } }

/-- The owner's part of a change of parameter (R12, R86, R97, R163). -/
def applyParam (q : Param) (s : State) : State :=
  match q with
  | .sweepMode =>
    if s.params.sweepMode = .off then { s with swp := { s.swp with allowance := 0 } } else s
  | .sweepRate => { s with swp := { s.swp with allowance := min s.swp.allowance (2 * s.params.sweepRate) } }
  | .statsMode => retimed s
  | .statsIntervalS => retimed s
  | .occupancyPct => evalOccupancy s
  | .containersLowCount => evalContainersLow s
  | .claimWindowMs | .graceS | .lossWindowMs => s

/-- The memory interface's event of a SET_PARAMETER: the value is written to the settings area and handed to the owner (R178). -/
def handChange (p : Port) (e : QEntry) (s : State) : State :=
  match e.request with
  | .setParameter q v =>
    setChanges
      (s.mif.changes ++ [{ port := p, tag := e.tag, mark := e.mark, param := q, value := v, units := fourOf fun _ => false }])
      (writeParam q v (markTaken p e.tag s))
  | _ => answerEntry p e .malformed s

/-- A change that its owner has wholly taken: the value is in force, with the owner's effects, and the request is answered
DONE with it (R178). An outcome whose port has left ONLINE is dropped, and the change stands (R153). -/
def changeTaken (c : ParamChange) (s : State) : State :=
  answer c.port c.tag c.mark (.done (.parameter c.value)) (applyParam c.param (forceParam c.param c.value s))

/-- The owner of a parameter can take a change now: the claim unit, which owns CLAIM_WINDOW_MS, takes none within an
operation of its own (R44). -/
def ownerFree (s : State) (q : Param) : Bool := decide (q ≠ .claimWindowMs) || !cluBusy s

/-- A change of the parameter. -/
def isChange (q : Param) (c : ParamChange) : Bool := decide (c.param = q)

/-- A change of LOSS_WINDOW_MS that the port unit has not taken. -/
def isUnitChange (u : Port) (c : ParamChange) : Bool := isChange .lossWindowMs c && !fourGet c.units u

/-- The owner of a parameter takes the earliest change of it, where that is the port's. LOSS_WINDOW_MS has four owners, each
with an event of its own (R178). -/
def ownChange (p : Port) (q : Param) (s : State) : State :=
  match s.mif.changes.find? (isChange q) with
  | some c =>
    if c.port = p ∧ q ≠ .lossWindowMs ∧ ownerFree s q = true then
      changeTaken c (setChanges (s.mif.changes.eraseP (isChange q)) s)
    else s
  | none => s

/-- A port unit takes its earliest change of LOSS_WINDOW_MS, where that is the port's. The last of the four ends the change
(R178). -/
def unitChange (p u : Port) (s : State) : State :=
  match s.mif.changes.find? (isUnitChange u) with
  | some c =>
    if c.port ≠ p then s
    else if (fourList (fourSet c.units u true)).all id = true then
      changeTaken c (setChanges (s.mif.changes.eraseP (isUnitChange u)) s)
    else
      setChanges
        (s.mif.changes.modify (s.mif.changes.findIdx (isUnitChange u))
          (fun c => { c with units := fourSet c.units u true }))
        s
  | none => s

/-- The owner's events of a port's change, one behind the other. -/
def ownWhole (p : Port) (q : Param) (s : State) : State :=
  if q = .lossWindowMs then allPorts.foldl (fun s u => unitChange p u s) s else ownChange p q s

/-- SET_PARAMETER taken: the memory interface's event, and the owner's right behind it where no earlier change of the
parameter is left (R178, log 39). -/
def takeParameter (p : Port) (e : QEntry) (s : State) : State :=
  match e.request with
  | .setParameter q _ => doWhen (!s.mif.changes.any (isChange q)) (ownWhole p q) (handChange p e s)
  | _ => handChange p e s

/-- The value of a parameter in force at its owner; of LOSS_WINDOW_MS, at the port unit of the port that asks: DESIGN CHOICE
where the four differ (R178, log 50). -/
def inForce (s : State) (p : Port) (q : Param) : Nat :=
  if q = .lossWindowMs then lossWindow s p else paramValue s.params q

/-- GET_PARAMETER taken: the value in force at the owner (R178). -/
def getParameterWork (p : Port) (e : QEntry) (s : State) : State × Answer :=
  match e.request with
  | .getParameter q => (s, .done (.parameter (inForce s p q)))
  | _ => (s, .malformed)

/-! ## Status (R179) -/

/-- The recorded capacity of a valid header where it differs from the capacity (R179). -/
def recordedCapacity (s : State) : Option (BitVec 32) :=
  if s.mif.indexState ≠ .noMemory ∧ headerValid s.mem.header = true ∧
      s.mem.header.capacity.toNat ≠ capacity s
  then some s.mem.header.capacity else none

/-- What IDENTIFY reports (R179). Before recovery or a FORMAT from UNFORMATTED has written one, the start count is 0 (log
46). -/
def identityReport (s : State) : Identity :=
  { startCount := s.mif.startCount,
    modules := fourOf (fun m => ((fourGet s.mif.descriptors m).size, moduleStatus s.mif.descriptors m)),
    capacity := capacity s, bucketCount := bucketCount s, recordedCapacity := recordedCapacity s,
    settingsDefaulted := s.mif.settingsDefaulted, containerRebuilt := s.mif.containerRebuilt }

/-- IDENTIFY taken (R179). -/
def identifyWork (_ : Port) (_ : QEntry) (s : State) : State × Answer := (s, .done (.identity (identityReport s)))

/-- What INDEX_STATUS reports (R68, R71, R95, R179). -/
def indexReport (s : State) : IndexReport :=
  { state := s.mif.indexState, occupancy := s.ixc.occupancy, capacity := capacity s,
    claimsInUse := s.clu.claims.countP (fun e => claimInUse e.2), waitersInUse := waitersInUse s,
    freeCount := s.ctu.freeList.length, cursor := s.swp.cursor, passCount := s.swp.passCount, clock := s.tmb.clock }

/-- INDEX_STATUS taken (R179). -/
def indexStatusWork (_ : Port) (_ : QEntry) (s : State) : State × Answer := (s, .done (.indexReport (indexReport s)))

/-! ## The commands -/

/-- POWER_ON: release of the reset input (R159, R171, R172). A powered part starts afresh as well (log 19). -/
def execPowerOn (inputs : StartInputs) (s : State) : Result := .next (startPart inputs s)

/-- RECOVERY (R175). -/
def execRecovery (s : State) : Result := .next (whenPowered s (doWhen (mayRecover s) recover))

/-- IDENTIFY (R179). -/
def execIdentify (p : Port) (r : RequestStep) (s : State) : Result :=
  .next (whenPowered s (runRequest .identify (answering identifyWork) p r))

/-- INDEX_STATUS (R179). -/
def execIndexStatus (p : Port) (r : RequestStep) (s : State) : Result :=
  .next (whenPowered s (runRequest .indexStatus (answering indexStatusWork) p r))

/-- GET_PARAMETER (R178). -/
def execGetParameter (p : Port) (r : RequestStep) (s : State) : Result :=
  .next (whenPowered s (runRequest .getParameter (answering getParameterWork) p r))

/-- SET_PARAMETER (R178). -/
def execSetParameter (p : Port) (r : ParameterStep) (s : State) : Result :=
  .next (whenPowered s (
    match r with
    | .request r => runRequest .setParameter takeParameter p r
    | .write tag => takeRequest .setParameter handChange p tag
    | .own q => ownChange p q
    | .unit u => unitChange p u))

/-- INDEX_CLOCK_ADVANCE (R92). -/
def execIndexClockAdvance (s : State) : Result := .next (whenPowered s (doWhen (secondPassed s) advanceClock))

/-- CLOCK_SAVE (R93). -/
def execClockSave (s : State) : Result := .next (whenPowered s (doWhen (clockSaveDue s) saveClock))

/-- FORMAT (R176). -/
def execFormat (p : Port) (r : RequestStep) (s : State) : Result :=
  .next (whenPowered s (runRequest .format takeFormat p r))

/-- FORMAT_AFTER_OPERATION: the FORMAT that waits is taken when the operation in progress has ended (R19, R176). -/
def execFormatAfterOperation (s : State) : Result :=
  .next (whenPowered s fun s =>
    match waitingFormat s with
    | some (p, e) => takeFormatNow p e s
    | none => s)

/-- FORMAT_WALK: the walk of FORMATTING to its end (R176). A RESTART ends it (R177). It waits for the owners to take the
changes of parameters handed to them before it: DESIGN CHOICE (log 39). -/
def execFormatWalk (s : State) : Result :=
  .next (whenPowered s fun s =>
    match s.mif.formatJob with
    | some j => doWhen (decide (s.mif.indexState = .formatting) && !s.mif.restartTaken && s.mif.changes.isEmpty) (formatWalk j) s
    | none => s)

/-- RESTART (R177). -/
def execRestart (p : Port) (r : RequestStep) (s : State) : Result :=
  .next (whenPowered s (runRequest .restart takeRestart p r))

/-- RESTART_RESET (R177). -/
def execRestartReset (inputs : StartInputs) (w : WalkPoint) (s : State) : Result :=
  .next (whenPowered s (doWhen (mayReset s) (restartPart inputs w)))

/-- SILENCE_END: 20 ms after a RESTART the transmitters send again (R159, R177). -/
def execSilenceEnd (s : State) : Result :=
  .next (whenPowered s
    (doWhen (s.mif.silenced && decide (Config.silenceMs ≤ s.mif.silenceMs))
      fun s => { s with mif := { s.mif with silenced := false } }))

/-- POWER_LOSS (R93). -/
def execPowerLoss (w : WalkPoint) (s : State) : Result := .next (whenPowered s (losePower w))

end Sys2Proof.Machine
end

