-- ==== Sys2Proof/Machine/Sweeper.lean ====
section
/-! DEFINITION. The sweeper family: the bucket operation, purge and pass end. -/

namespace Sys2Proof.Machine

/-- The ZERO entry is past grace: the clock at the grant is at or above zero-since plus the grace (R94). -/
def pastGrace (grace : Nat) (now : BitVec 40) (im : SlotImage) : Bool :=
  decide (im.zeroSince.toNat + grace ≤ now.toNat)

/-- A purge: the slot FREE, occupancy lowered, the entry departed, PURGES and PURGE_BYTES counted in its origin
namespace (R99). -/
def purgeSlot (n : Nat) (s : State) : State :=
  let im := slotGet s n
  let s := setOccupancy (s.ixc.occupancy - 1) (slotPut n SlotImage.free s)
  countNs im.ns.toNat .purgeBytes im.loc.length.toNat (countNs im.ns.toNat .purges 1 (departLocation im.loc s))

/-- A ZERO slot past grace purged, by its state as verification leaves it (R98). -/
def purgeIfDue (grace : Nat) (now : BitVec 40) (n : Nat) (s : State) : State :=
  if slotState s n = some .zero ∧ pastGrace grace now (slotGet s n) = true then purgeSlot n s else s

/-- One slot of the bucket in a mode. In SCRUB every slot is verified first; in PURGE a ZERO slot that its stamp puts
past grace is verified before it is purged (R98). -/
def sweepSlot (mode : SweepMode) (grace : Nat) (now : BitVec 40) (s : State) (n : Nat) : State :=
  match mode with
  | .off => s
  | .scrub => purgeIfDue grace now n (verifySlot n s)
  | .purge =>
    if slotState s n = some .zero ∧ pastGrace grace now (slotGet s n) = true then
      purgeIfDue grace now n (verifySlot n s)
    else s

/-- The end of a bucket operation: allowance, then cursor, and at the last bucket the pass count and SWEEP_DONE (R100). An
allowance that a change to OFF made 0 during the operation (R97) stays at 0: DESIGN CHOICE (log 43). -/
def endBucket (s : State) : State :=
  let s := { s with swp := { s.swp with allowance := s.swp.allowance - 1 } }
  if bucketCount s ≤ s.swp.cursor + 1 then
    raiseAll .sweepDone { s with swp := { s.swp with cursor := 0, passCount := s.swp.passCount + 1#32 } }
  else { s with swp := { s.swp with cursor := s.swp.cursor + 1 } }

/-- The bucket at the cursor dealt with slot by slot (R98). -/
def sweepBucket (mode : SweepMode) (grace : Nat) (now : BitVec 40) (s : State) : State :=
  (bucketSlots s.swp.cursor).foldl (sweepSlot mode grace now) s

/-- The sweeper's turn granted: mode, grace and the clock are those of the grant (R19, R97, R98). -/
def grantSweeper (s : State) : Option (State × Turn) :=
  if nextRequester s = some .swp then
    some (grantTurn .swp (.sweep s.params.sweepMode s.params.graceS s.tmb.clock) s,
      .sweep s.params.sweepMode s.params.graceS s.tmb.clock)
  else none

/-- The turn is the sweeper's. -/
def isSweepTurn : Turn → Bool
  | .sweep _ _ _ => true
  | _ => false

/-- A bucket operation ends (R98, R100). -/
def finishSweep (t : Turn) (s : State) : State :=
  match t with
  | .sweep mode grace now => endTurn (endBucket (sweepBucket mode grace now s))
  | _ => s

/-- SWEEPER_BUCKET_OPERATION (R98 to R100). -/
def execSweeperBucketOperation (st : OpStep) (s : State) : Result :=
  .next (whenPowered s (runTurn grantSweeper finishSweep isSweepTurn st))

end Sys2Proof.Machine
end

