-- ==== Sys2Proof/Machine/Link.lean ====
section
/-! DEFINITION. The link family: frames as bytes, bad and discarded frames, the transmitter, and kind codes that name no kind. -/

namespace Sys2Proof.Machine

/-- The request of a kind whose frame arrives at a port, taken by its block where it can be. -/
def execRequest (k : Kind) (p : Port) (f : RequestFrame) (s : State) : Result :=
  match k with
  | .identify => execIdentify p (.whole f) s
  | .portStatus => execPortStatus p (.whole f) s
  | .indexStatus => execIndexStatus p (.whole f) s
  | .containerStatus => execContainerStatus p (.request (.whole f)) s
  | .findEmpty => execFindEmpty p (.request (.whole f)) s
  | .events => execEvents p (.whole f) s
  | .setEventMask => execSetEventMask p (.whole f) s
  | .stats => execStats p (.whole f) s
  | .getParameter => execGetParameter p (.whole f) s
  | .probe => execProbe p f s
  | .probeBatch => execProbeBatch p (.whole f) s
  | .cancel => execCancel p (.whole f) s
  | .lookup => execLookup p f s
  | .lookupBatch => execLookupBatch p (.whole f) s
  | .ref => execRef p f s
  | .commit => execCommit p (.whole f) s
  | .abandon => execAbandon p (.whole f) s
  | .openContainer => execOpenContainer p (.request (.whole f)) s
  | .closeContainer => execCloseContainer p (.request (.whole f)) s
  | .move => execMove p f s
  | .release => execRelease p f s
  | .releaseBatch => execReleaseBatch p (.whole f) s
  | .reclaim => execReclaim p (.request (.whole f)) s
  | .setNamespace => execSetNamespace p (.whole f) s
  | .setPort => execSetPort p (.whole f) s
  | .admitPort => execAdmit p (.whole f) s
  | .evict => execEvict p (.whole f) s
  | .drop => execDrop p f s
  | .restore => execRestore p f s
  | .readSlot => execReadSlot p f s
  | .setParameter => execSetParameter p (.request (.whole f)) s
  | .snapshot => execSnapshot p (.whole f) s
  | .format => execFormat p (.whole f) s
  | .restart => execRestart p (.whole f) s

/-- A kind code that names no kind: tested as every frame, and malformed where checks 2 to 4 pass (R134). -/
def unknownRequest (p : Port) (code : Byte) (f : RequestFrame) (s : State) : State := (arrive p code none f s).1

/-- A frame whose check fails, or that is too short, cut or overlong: discarded with FRAMES_BAD and FRAME_ERROR (R131,
R180). -/
def discardBad (p : Port) (s : State) : State := raiseTo p .frameError (countPort p .framesBad 1 (seeSymbols p s))

/-- A frame taken off the link. A DOWN port receives none; a port whose response list holds 32 or more, or that has seen
a RESTART taken, discards it before its frame check; a bad frame is counted; any other is the request its bytes spell
(R131, R143, R177, R180, R181). -/
def receiveFrame (p : Port) (r : Reception) (s : State) : Result :=
  if s.powered = false ∨ (portUnit s p).state = .down then .next s
  else if takesFrames s p = false then .next (seeSymbols p s)
  else if receptionIsBad r = true then .next (discardBad p s)
  else
    match r with
    | .whole bytes =>
      match kindOfCode (readFrame bytes).1 with
      | some k => execRequest k p (readFrame bytes).2 s
      | none => .next (unknownRequest p (readFrame bytes).1 (readFrame bytes).2 s)
    | _ => .next s

/-- What a port's transmitter puts on its link: nothing without supply and in the silence after a RESTART; else the
response begun before the list was discarded, else the head of the list, and idle symbols when it has none (R143, R147,
R159, R177; what is begun: log 16). -/
def transmitting (s : State) (p : Port) : Transmission :=
  if s.powered = false ∨ s.mif.silenced = true then .silent
  else
    match (portUnit s p).finishing, (portUnit s p).responses with
    | some r, _ => .response r
    | none, r :: _ => .response r
    | none, [] => .idle

/-- A port unit whose transmitter has finished the response it sends (R143). -/
def unitSent (u : PortUnit) : PortUnit :=
  if u.finishing.isSome then { u with finishing := none } else { u with responses := u.responses.tail }

/-- A response wholly transmitted: it leaves its port unit, and its frame is on the link (R143, R182). A transmitter that is
silent or sends idle symbols has none. -/
def transmitNext (p : Port) (s : State) : State :=
  match transmitting s p with
  | .response r => updPort p unitSent { s with linkOut := fourSet s.linkOut p (responseBytes r) }
  | .idle | .silent => s

/-- BAD_FRAME (R131, R180). Bytes whose check holds are received as what they are (log 26). -/
def execBadFrame (p : Port) (r : Reception) (s : State) : Result := receiveFrame p r s

/-- FRAME_DISCARDED_LIST_FULL (R143). At a port whose list holds fewer than 32 the frame is received as what it is
(log 26). -/
def execFrameDiscardedListFull (p : Port) (r : Reception) (s : State) : Result := receiveFrame p r s

/-- RESPONSE_TRANSMITTED: a response wholly transmitted leaves the list; a silenced transmitter sends none (R143, R177,
R182). -/
def execResponseTransmitted (p : Port) (s : State) : Result :=
  .next (whenPowered s (transmitNext p))

/-- UNKNOWN_KIND_CODE (R134). -/
def execUnknownKindCode (p : Port) (code : Byte) (f : RequestFrame) (s : State) : Result :=
  .next (whenPowered s (doWhen (kindOfCode code).isNone (unknownRequest p code f)))

end Sys2Proof.Machine
end

