-- ==== Sys2Proof/Machine/Dispatch.lean ====
section
/-! DEFINITION. The meaning of every command: one arm for each constructor of Instr. -/

namespace Sys2Proof.Machine

def exec (i : Instr) (s : State) : Host.Outcome State Fault Refusal :=
  match i with
  | .powerOn inputs => Sys2Proof.Machine.execPowerOn inputs s
  | .recovery => Sys2Proof.Machine.execRecovery s
  | .badFrame p r => Sys2Proof.Machine.execBadFrame p r s
  | .frameDiscardedListFull p r => Sys2Proof.Machine.execFrameDiscardedListFull p r s
  | .responseTransmitted p => Sys2Proof.Machine.execResponseTransmitted p s
  | .identify p r => Sys2Proof.Machine.execIdentify p r s
  | .portStatus p r => Sys2Proof.Machine.execPortStatus p r s
  | .indexStatus p r => Sys2Proof.Machine.execIndexStatus p r s
  | .containerStatus p r => Sys2Proof.Machine.execContainerStatus p r s
  | .findEmpty p r => Sys2Proof.Machine.execFindEmpty p r s
  | .events p r => Sys2Proof.Machine.execEvents p r s
  | .setEventMask p r => Sys2Proof.Machine.execSetEventMask p r s
  | .stats p r => Sys2Proof.Machine.execStats p r s
  | .getParameter p r => Sys2Proof.Machine.execGetParameter p r s
  | .setParameter p r => Sys2Proof.Machine.execSetParameter p r s
  | .lookup p f => Sys2Proof.Machine.execLookup p f s
  | .probe p f => Sys2Proof.Machine.execProbe p f s
  | .ref p f => Sys2Proof.Machine.execRef p f s
  | .release p f => Sys2Proof.Machine.execRelease p f s
  | .move p f => Sys2Proof.Machine.execMove p f s
  | .readSlot p f => Sys2Proof.Machine.execReadSlot p f s
  | .drop p f => Sys2Proof.Machine.execDrop p f s
  | .restore p f => Sys2Proof.Machine.execRestore p f s
  | .lookupOperation p st => Sys2Proof.Machine.execLookupOperation p st s
  | .probeOperation p st => Sys2Proof.Machine.execProbeOperation p st s
  | .refOperation p st => Sys2Proof.Machine.execRefOperation p st s
  | .releaseOperation p st => Sys2Proof.Machine.execReleaseOperation p st s
  | .moveOperation p st => Sys2Proof.Machine.execMoveOperation p st s
  | .readSlotOperation p st => Sys2Proof.Machine.execReadSlotOperation p st s
  | .dropOperation p st => Sys2Proof.Machine.execDropOperation p st s
  | .restoreOperation p st => Sys2Proof.Machine.execRestoreOperation p st s
  | .commit p r => Sys2Proof.Machine.execCommit p r s
  | .commitEntryUpdate st => Sys2Proof.Machine.execCommitEntryUpdate st s
  | .abandon p r => Sys2Proof.Machine.execAbandon p r s
  | .freeingUpdate st => Sys2Proof.Machine.execFreeingUpdate st s
  | .claimExpiry n => Sys2Proof.Machine.execClaimExpiry n s
  | .cancel p r => Sys2Proof.Machine.execCancel p r s
  | .openContainer p r => Sys2Proof.Machine.execOpenContainer p r s
  | .closeContainer p r => Sys2Proof.Machine.execCloseContainer p r s
  | .reclaim p r => Sys2Proof.Machine.execReclaim p r s
  | .lookupBatch p r => Sys2Proof.Machine.execLookupBatch p r s
  | .probeBatch p r => Sys2Proof.Machine.execProbeBatch p r s
  | .releaseBatch p r => Sys2Proof.Machine.execReleaseBatch p r s
  | .batchItemOperation st => Sys2Proof.Machine.execBatchItemOperation st s
  | .itemAnswer => Sys2Proof.Machine.execItemAnswer s
  | .batchCancellation => Sys2Proof.Machine.execBatchCancellation s
  | .withdrawalRequest => Sys2Proof.Machine.execWithdrawalRequest s
  | .withdrawalAnswer => Sys2Proof.Machine.execWithdrawalAnswer s
  | .sweeperBucketOperation st => Sys2Proof.Machine.execSweeperBucketOperation st s
  | .millisecondTick symbols => Sys2Proof.Machine.execMillisecondTick symbols s
  | .loss p => Sys2Proof.Machine.execLoss p s
  | .persistenceMet p => Sys2Proof.Machine.execPersistenceMet p s
  | .firstSymbol p => Sys2Proof.Machine.execFirstSymbol p s
  | .admitPort p r => Sys2Proof.Machine.execAdmit p r s
  | .evict p r => Sys2Proof.Machine.execEvict p r s
  | .ctuTeardown p => Sys2Proof.Machine.execCtuTeardown p s
  | .bteTeardown p => Sys2Proof.Machine.execBteTeardown p s
  | .cluTeardown p => Sys2Proof.Machine.execCluTeardown p s
  | .teardownCompletion => Sys2Proof.Machine.execTeardownCompletion s
  | .setNamespace p r => Sys2Proof.Machine.execSetNamespace p r s
  | .setPort p r => Sys2Proof.Machine.execSetPort p r s
  | .snapshot p r => Sys2Proof.Machine.execSnapshot p r s
  | .intervalEnd => Sys2Proof.Machine.execIntervalEnd s
  | .indexClockAdvance => Sys2Proof.Machine.execIndexClockAdvance s
  | .clockSave => Sys2Proof.Machine.execClockSave s
  | .format p r => Sys2Proof.Machine.execFormat p r s
  | .formatAfterOperation => Sys2Proof.Machine.execFormatAfterOperation s
  | .formatWalk => Sys2Proof.Machine.execFormatWalk s
  | .restart p r => Sys2Proof.Machine.execRestart p r s
  | .restartReset inputs w => Sys2Proof.Machine.execRestartReset inputs w s
  | .silenceEnd => Sys2Proof.Machine.execSilenceEnd s
  | .powerLoss w => Sys2Proof.Machine.execPowerLoss w s
  | .unknownKindCode p code f => Sys2Proof.Machine.execUnknownKindCode p code f s

end Sys2Proof.Machine
end

