-- ==== Sys2Proof/Machine/Step.lean ====
section
/-! DEFINITION. One step: the command at the front of the queue, run on the state with the queue's rest. -/

namespace Sys2Proof.Machine

/-- The state with the command queue replaced. -/
def State.withPending (s : State) (q : List Instr) : State := { s with pending := q }

/-- One step: the command at the front of the queue is taken and run; on an empty queue the part idles (log 1). -/
def step (s : State) : Host.Outcome State Fault Refusal :=
  match s.pending with
  | [] => .next s
  | c :: rest => exec c (s.withPending rest)

/-- The state with the command that a table word spells at the front of its queue. The table gives no row bits, so no
word spells a command. -/
def State.withFetchWord (s : State) (nbits w : Nat) : State :=
  match decodeTableWord nbits w with
  | some c => s.withPending (c :: s.pending)
  | none => s

end Sys2Proof.Machine
end

