-- ==== Sys2Proof/Safety.lean ====
section
/-! DEFINITION. What the statements say: the invariants of the part, and the conditions under which a request is admitted, taken or granted its turn. -/

namespace Sys2Proof.Machine

/-! ## Invariants -/

/-- A reserved region is in its canonical form: containers and stored namespaces. -/
def Reserved.wf (r : Reserved) : Bool :=
  tableWf ContainerRec.zero r.containers && tableWf NsRec.zero r.settings.namespaces

/-- Index memory is in its canonical form: slots, containers and stored namespaces, and those of modules not in slot 0. -/
def IndexMemory.wf (m : IndexMemory) : Bool :=
  tableWf SlotImage.free m.slots && tableWf ContainerRec.zero m.containers &&
    tableWf NsRec.zero m.settings.namespaces && m.region1.wf && m.region2.wf && m.region3.wf

/-- Every table of the part is in its canonical form, so that equal contents are equal data. -/
def TablesOk (s : State) : Prop :=
  s.mem.wf = true ∧ tableWf ClaimRec.zero s.clu.claims = true ∧ tableWf Context.zero s.bte.contexts = true ∧
    tableWf NsRec.zero s.nst = true ∧ tableWf Counter.zero s.stu.live = true ∧
    tableWf Counter.zero s.stu.snap = true

/-- The attention line follows event set and mask (R170). -/
def AttnOk (u : PortUnit) : Prop := u.attn = decide (u.events &&& u.mask ≠ 0#13)

/-- A DOWN port holds an empty queue, an empty response list and an empty event set (R147). -/
def DownOk (u : PortUnit) : Prop := u.state = .down → u.queue = [] ∧ u.responses = [] ∧ u.events = 0#13

/-- A queue holds at most 32 requests, no two with one tag (R129), and queue and response list together at most 64
(R143). -/
def QueueOk (u : PortUnit) : Prop :=
  u.queue.length ≤ 32 ∧ (u.queue.map (fun e => e.tag)).Nodup ∧ u.queue.length + u.responses.length ≤ 64

/-- The link counts are in their ranges (R145). -/
def LinkOk (u : PortUnit) : Prop := u.quiet ≤ 15 ∧ u.persistence ≤ 100

/-- A port unit as the rules keep it. -/
def UnitOk (u : PortUnit) : Prop := AttnOk u ∧ DownOk u ∧ QueueOk u ∧ LinkOk u

/-- Every port unit is as the rules keep it. -/
def PortsOk (s : State) : Prop := ∀ p, UnitOk (portUnit s p)

/-- Every counter is a number from 0 to 2^48 - 1 (R160). -/
def CountersOk (s : State) : Prop :=
  (∀ e ∈ s.stu.live, e.2.value ≤ Config.counterMax) ∧ (∀ e ∈ s.stu.snap, e.2.value ≤ Config.counterMax)

/-! ## Conditions of statements -/

/-- The command by which a frame of a kind arrives at a port, its taking left to a later command. -/
def arrivalCommand (k : Kind) (p : Port) (f : RequestFrame) : Instr :=
  match k with
  | .identify => .identify p (.arrive f)
  | .portStatus => .portStatus p (.arrive f)
  | .indexStatus => .indexStatus p (.arrive f)
  | .containerStatus => .containerStatus p (.request (.arrive f))
  | .findEmpty => .findEmpty p (.request (.arrive f))
  | .events => .events p (.arrive f)
  | .setEventMask => .setEventMask p (.arrive f)
  | .stats => .stats p (.arrive f)
  | .getParameter => .getParameter p (.arrive f)
  | .probe => .probe p f
  | .probeBatch => .probeBatch p (.arrive f)
  | .cancel => .cancel p (.arrive f)
  | .lookup => .lookup p f
  | .lookupBatch => .lookupBatch p (.arrive f)
  | .ref => .ref p f
  | .commit => .commit p (.arrive f)
  | .abandon => .abandon p (.arrive f)
  | .openContainer => .openContainer p (.request (.arrive f))
  | .closeContainer => .closeContainer p (.request (.arrive f))
  | .move => .move p f
  | .release => .release p f
  | .releaseBatch => .releaseBatch p (.arrive f)
  | .reclaim => .reclaim p (.request (.arrive f))
  | .setNamespace => .setNamespace p (.arrive f)
  | .setPort => .setPort p (.arrive f)
  | .admitPort => .admitPort p (.arrive f)
  | .evict => .evict p (.arrive f)
  | .drop => .drop p f
  | .restore => .restore p f
  | .readSlot => .readSlot p f
  | .setParameter => .setParameter p (.request (.arrive f))
  | .snapshot => .snapshot p (.arrive f)
  | .format => .format p (.arrive f)
  | .restart => .restart p (.arrive f)

/-- The command of a kind that a block takes, with a step; an index kind has none. -/
def blockCommand (k : Kind) (p : Port) (r : RequestStep) : Option Instr :=
  match k with
  | .identify => some (.identify p r)
  | .portStatus => some (.portStatus p r)
  | .indexStatus => some (.indexStatus p r)
  | .containerStatus => some (.containerStatus p (.request r))
  | .findEmpty => some (.findEmpty p (.request r))
  | .events => some (.events p r)
  | .setEventMask => some (.setEventMask p r)
  | .stats => some (.stats p r)
  | .getParameter => some (.getParameter p r)
  | .probeBatch => some (.probeBatch p r)
  | .cancel => some (.cancel p r)
  | .lookupBatch => some (.lookupBatch p r)
  | .commit => some (.commit p r)
  | .abandon => some (.abandon p r)
  | .openContainer => some (.openContainer p (.request r))
  | .closeContainer => some (.closeContainer p (.request r))
  | .releaseBatch => some (.releaseBatch p r)
  | .reclaim => some (.reclaim p (.request r))
  | .setNamespace => some (.setNamespace p r)
  | .setPort => some (.setPort p r)
  | .admitPort => some (.admitPort p r)
  | .evict => some (.evict p r)
  | .setParameter => some (.setParameter p (.request r))
  | .snapshot => some (.snapshot p r)
  | .format => some (.format p r)
  | .restart => some (.restart p r)
  | .probe | .lookup | .ref | .move | .release | .drop | .restore | .readSlot => none

/-- The command of a kind that the container unit takes, with a step; another kind has none. -/
def containerCommand (k : Kind) (p : Port) (r : ContainerStep) : Option Instr :=
  match k with
  | .openContainer => some (.openContainer p r)
  | .closeContainer => some (.closeContainer p r)
  | .reclaim => some (.reclaim p r)
  | .findEmpty => some (.findEmpty p r)
  | .containerStatus => some (.containerStatus p r)
  | _ => none

/-- The command of an index kind's turn at the arbiter; the other kinds have none. -/
def turnCommand (k : Kind) (p : Port) (st : OpStep) : Option Instr :=
  match k with
  | .lookup => some (.lookupOperation p st)
  | .probe => some (.probeOperation p st)
  | .ref => some (.refOperation p st)
  | .release => some (.releaseOperation p st)
  | .move => some (.moveOperation p st)
  | .readSlot => some (.readSlotOperation p st)
  | .drop => some (.dropOperation p st)
  | .restore => some (.restoreOperation p st)
  | _ => none

/-- The port receives frames and takes their arrival: the part is powered, the port is not DOWN, its response list holds
fewer than 32, and no RESTART is taken (R131, R143, R177). -/
def Receiving (s : State) (p : Port) : Prop :=
  s.powered = true ∧ (portUnit s p).state ≠ .down ∧ (portUnit s p).responses.length < 32 ∧ s.mif.restartTaken = false

/-- Checks 2 and 3 pass (R132). -/
def HasRoom (s : State) (p : Port) (tag : Tag) : Prop :=
  (portUnit s p).queue.length < 32 ∧ ∀ e ∈ (portUnit s p).queue, e.tag ≠ tag

/-- A frame whose check holds has been received: FRAMES_IN counted (R131). -/
def frameIn (p : Port) (s : State) : State := countPort p .framesIn 1 (seeSymbols p s)

/-- A queued request of a port that its block has not taken and can take now, in a powered part in which its kind may be
taken (R136, R142). -/
def CanTake (s : State) (p : Port) (e : QEntry) : Prop :=
  s.powered = true ∧ takeable s p e.kind e.tag = some e ∧ kindAllowed e.kind s.mif.indexState = true ∧
    e.mark = (portUnit s p).session ∧ s.mif.restartTaken = false

/-- The request is queued at the port under the port's present session, so that its outcome is answered (R143, R153). -/
def IsQueued (s : State) (p : Port) (e : QEntry) : Prop :=
  queued s p e.tag = some e ∧ e.mark = (portUnit s p).session

/-- The next turn at the arbiter is the port's, and the request it holds is this one, queued under the port's present
session (R18, R19). -/
def HasTurn (s : State) (p : Port) (e : QEntry) : Prop :=
  s.powered = true ∧ nextRequester s = some (.pu p) ∧ firstWaiting s p = some e ∧ IsQueued s p e

/-- The port's turn granted (R19): the state in which its operation begins. -/
def turnBegun (p : Port) (e : QEntry) (s : State) : State := grantTurn (.pu p) (.port p e) s

/-- A request answered: it leaves the queue, and its response joins the tail of the response list (R143). -/
def answered (p : Port) (e : QEntry) (a : Answer) (s : State) : State :=
  updPort p (fun u =>
    { u with
      queue := u.queue.filter (fun x => decide (x.tag ≠ e.tag)),
      responses := u.responses ++ [{ kind := kindCode e.kind, tag := e.tag, answer := a }] }) s

/-- A change of parameter is in force, with its owner's effects, and no other block has changed: the sweeper's allowance (R97),
the interval timer (R163) and the level conditions (R12, R86), whose notices the port units may hold. -/
def ParamInForce (q : Param) (v : Nat) (s t : State) : Prop :=
  t.params = paramSet s.params q v ∧
  t.swp.allowance =
    (if q = .sweepMode ∧ v = 0 then 0 else if q = .sweepRate then min s.swp.allowance (2 * v) else s.swp.allowance) ∧
  t.stu.timer =
    (if q = .statsMode ∨ q = .statsIntervalS then
      (if t.params.statsMode = .interval ∧ s.mif.indexState = .ready then some 0 else none)
    else s.stu.timer) ∧
  (q = .occupancyPct → t.ixc.occupancyHigh =
    (decide (s.mif.indexState = .ready) && decide (v * capacity s ≤ s.ixc.occupancy * 100))) ∧
  (q = .containersLowCount → t.ctu.containersLow =
    (decide (s.mif.indexState = .ready) && decide (s.ctu.freeList.length < v))) ∧
  (q ≠ .occupancyPct → t.ixc.occupancyHigh = s.ixc.occupancyHigh) ∧
  (q ≠ .containersLowCount → t.ctu.containersLow = s.ctu.containersLow) ∧
  t.clu = s.clu ∧ t.bte = s.bte ∧ t.tmb = s.tmb ∧ t.nst = s.nst ∧ t.swp.cursor = s.swp.cursor ∧
  t.swp.passCount = s.swp.passCount ∧ t.stu.live = s.stu.live ∧ t.stu.snap = s.stu.snap ∧
  t.stu.sequence = s.stu.sequence ∧ t.ixc.occupancy = s.ixc.occupancy ∧ t.ixc.lastServed = s.ixc.lastServed ∧
  t.ixc.inProgress = s.ixc.inProgress ∧ t.ctu.freeList = s.ctu.freeList ∧ t.ctu.openCount = s.ctu.openCount ∧
  t.linkOut = s.linkOut

/-- No claim record is in use, no container is OPEN, and no batch context is RUNNING, AWAITING or FINISHED: the tests of a
FORMAT in READY (R176). -/
def NothingInUse (s : State) : Prop :=
  (∀ x ∈ s.clu.claims, x.2.phase = .free) ∧ (∀ x ∈ s.mem.containers, x.2.state ≠ .opened) ∧
    (∀ x ∈ s.bte.contexts, x.2.phase ≠ .running ∧ x.2.phase ≠ .awaiting ∧ x.2.phase ≠ .finished)

/-- One index memory is another with its modules moved as a start says: each place holds the slot that it held in the
module slot the module stood in, and what the module holds beyond its slots goes with it (R172, R173). A module from outside
reads as one that nothing has written (log 5, log 6). -/
def ModulesMoved (stood : Four (Option Port)) (m t : IndexMemory) : Prop :=
  let beyond (m : IndexMemory) (p : Port) : Reserved :=
    match p with
    | .p0 =>
      { header := m.header, settings := m.settings, settingsCheck := m.settingsCheck, containers := m.containers,
        containersCheck := m.containersCheck }
    | .p1 => m.region1
    | .p2 => m.region2
    | .p3 => m.region3
  (stood = ⟨some .p0, some .p1, some .p2, some .p3⟩ → t = m) ∧
  ∀ p,
    (∀ j, j < 67108864 →
      tableGet SlotImage.free t.slots (portNumber p * 67108864 + j) =
        match fourGet stood p with
        | some q => tableGet SlotImage.free m.slots (portNumber q * 67108864 + j)
        | none => SlotImage.free) ∧
    beyond t p =
      match fourGet stood p with
      | some q => beyond m q
      | none => Reserved.blank

/-- The event set of a port holds a kind. -/
def hasEvent (s : State) (p : Port) (k : EventKind) : Prop := (portUnit s p).events.getLsbD (eventCode k) = true

end Sys2Proof.Machine
end

