-- ==== Sys2Proof/Certificates/Slice0/Obligations.lean ====
section
/-! DEFINITION. The statements for the provers: what each family of commands does, and what every command keeps. -/

open Sys2Proof Sys2Proof.Machine

/-! ## The command queue, reset and power -/

/-- A step runs the command at the front of the queue on the state with the queue's rest; with an empty queue the part
idles, which is the model's choice (log 1). -/
def Obligations.StepTakesFrontCommand : Prop :=
  ∀ (s : State) (c : Instr) (rest : List Instr),
    step (s.withPending (c :: rest)) = exec c (s.withPending rest) ∧ step (s.withPending []) = .next (s.withPending [])

/-- Every command ends in a next state and leaves the commands queued behind it. -/
def Obligations.EveryCommandAnswersNext : Prop :=
  ∀ (c : Instr) (s : State), ∃ t, exec c s = .next t ∧ t.pending = s.pending

/-- What power-on and RESTART leave of every block, whatever the straps and descriptors (R11, R19, R43, R48, R71, R72, R86,
R92, R95, R110, R128, R129, R139, R143, R145, R160 to R163, R166, R167, R169, R170, R178, R179); a start count of 0 in
every index state is the model's choice (log 46). State.reset is such a state, with no module fitted (log 4). -/
def Obligations.ResetLeavesEveryBlockEmpty : Prop :=
  (∀ (q : List Instr) (out : Four (List Byte)) (m : IndexMemory) (i : StartInputs) (st : IndexState),
    let t := State.afterReset q out m i st
    (∀ p, portUnit t p =
      { state := .down, privilege := fourGet i.straps p, nsMap := 0#64, autoAdmit := false, queue := [],
        responses := [], finishing := none, events := 0#13, mask := 0x1FFF#13, occEdge := .rise, lowEdge := .rise,
        occSignalled := false, lowSignalled := false, attn := false, quiet := 0, persistence := 0,
        persistenceMet := false, suppression := false, teardownCtu := false, teardownBte := false,
        teardownClu := false, session := 0#16, symbolSeen := false, judged := false }) ∧
    t.ixc.occupancy = 0 ∧ t.ixc.occupancyHigh = false ∧ t.ixc.lastServed = .swp ∧ t.ixc.inProgress = none ∧
    (∀ n, (claimGet t n).phase = .free ∧ (claimGet t n).generation = 0#32 ∧ (claimGet t n).waiters = []) ∧
    t.clu.updates = [] ∧ t.ctu.freeList = [] ∧ (∀ p, fourGet t.ctu.openCount p = 0) ∧ t.ctu.containersLow = false ∧
    t.ctu.outcomes = [] ∧ t.mif.changes = [] ∧ (∀ n, (contextGet t n).phase = .free) ∧ t.bte.held = none ∧ t.bte.rotation = 0 ∧
    t.swp.cursor = 0 ∧ t.swp.passCount = 0#32 ∧ t.swp.allowance = 0 ∧
    t.tmb.clock = 0#40 ∧ t.tmb.clockLoaded = false ∧
    (∀ n, tableGet NsRec.zero t.nst n = { state := .disabled, hold := false }) ∧
    (∀ k, tableGet Counter.zero t.stu.live k = { value := 0, saturated := false } ∧
      tableGet Counter.zero t.stu.snap k = { value := 0, saturated := false }) ∧
    t.stu.notice = false ∧ t.stu.sequence = 0#32 ∧ t.stu.timer = none ∧
    t.mif.startCount = 0#16 ∧ t.mif.settingsDefaulted = false ∧ t.mif.containerRebuilt = false ∧
    t.params =
      { claimWindowMs := 500, sweepMode := .scrub, sweepRate := 8, graceS := 86400, statsMode := .interval,
        statsIntervalS := 60, occupancyPct := 90, containersLowCount := 256, lossWindowMs := 4 }) ∧
  State.reset = State.afterReset [] State.reset.linkOut State.reset.mem unfittedInputs .noMemory

/-- POWER_ON resets every block, reads straps and descriptors, keeps index memory, a module moved from one slot to another
with its entries and what it holds beyond them, and decides the index state by the capacity of the descriptors and the
header of module 0; what a module from outside holds (log 5, log 6), and that it does so to a powered part, with index
memory as it stands within a walk too (log 19), are the model's choices. Loss of supply keeps index memory, never sets the
format mark, and within a recovery or a FORMAT leaves what the steps done had written: header, settings, slots and
containers, the point of the cut being the model's (R3, R93, R128, R159, R171, R172, R173, R175, R176; log 19). Until the
next POWER_ON every other command leaves the part as it is, which is the model's choice (log 27). -/
def Obligations.PowerStartsAndStopsThePart : Prop :=
  (∀ (s : State) (i : StartInputs), ∃ m st,
     exec (.powerOn i) s = .next (State.afterReset s.pending s.linkOut m i st) ∧ ModulesMoved i.stood s.mem m ∧
     (capacityOf i.descriptors = 0 → st = .noMemory) ∧
     (capacityOf i.descriptors ≠ 0 → headerValid m.header = true →
       m.header.capacity.toNat = capacityOf i.descriptors → st = .recovering) ∧
     (capacityOf i.descriptors ≠ 0 →
       (headerValid m.header = false ∨ m.header.capacity.toNat ≠ capacityOf i.descriptors) →
       st = .unformatted)) ∧
  (∀ ds : Four Descriptor,
     let fitted (d : Descriptor) : Prop := d.check = d.size ^^^ 0xFF#8 ∧ (d.size = 1#8 ∨ d.size = 2#8 ∨ d.size = 3#8)
     let size (d : Descriptor) : Nat := 2 ^ (23 + d.size.toNat)
     (¬ fitted ds.a0 → capacityOf ds = 0) ∧
     (fitted ds.a0 → ¬ fitted ds.a1 → capacityOf ds = size ds.a0) ∧
     (fitted ds.a0 → fitted ds.a1 → ¬ fitted ds.a2 → capacityOf ds = size ds.a0 + size ds.a1) ∧
     (fitted ds.a0 → fitted ds.a1 → fitted ds.a2 → ¬ fitted ds.a3 →
       capacityOf ds = size ds.a0 + size ds.a1 + size ds.a2) ∧
     (fitted ds.a0 → fitted ds.a1 → fitted ds.a2 → fitted ds.a3 →
       capacityOf ds = size ds.a0 + size ds.a1 + size ds.a2 + size ds.a3)) ∧
  ((∀ (s : State) (w : WalkPoint), s.powered = true →
     let m := s.mem
     let h := s.mem.header
     let ds := s.mif.descriptors
     let defaults : Settings :=
       { params := Params.defaults, namespaces := [],
         ports := ⟨⟨0#64, false⟩, ⟨0#64, false⟩, ⟨0#64, false⟩, ⟨0#64, false⟩⟩ }
     ∃ t, exec (.powerLoss w) s = .next t ∧ t.powered = false ∧ t.mem.header.mark = h.mark ∧
       t.mem.header.capacity = h.capacity ∧
       (s.mif.indexState ≠ .recovering → s.mif.indexState ≠ .formatting → t.mem = m) ∧
       (s.mif.indexState = .recovering →
         t.mem.header.startCount = (if 1 ≤ w.stage then h.startCount + 1#16 else h.startCount) ∧
         t.mem.header.clock.toNat = (if 2 ≤ w.stage then min (2 ^ 40 - 1) (h.clock.toNat + 60) else h.clock.toNat) ∧
         t.mem.header.check = (if 1 ≤ w.stage then crc16 (headerBytes t.mem.header) else h.check) ∧
         (w.stage < 3 ∨ m.settingsCheck = settingsCheckOf m.settings →
           t.mem.settings = m.settings ∧ t.mem.settingsCheck = m.settingsCheck) ∧
         (3 ≤ w.stage → m.settingsCheck ≠ settingsCheckOf m.settings →
           t.mem.settings = defaults ∧ t.mem.settingsCheck = settingsCheckOf defaults) ∧
         (w.stage < 4 → t.mem.slots = m.slots) ∧
         (4 ≤ w.stage → m.wf = true → ∀ k,
           ((∃ n, slotNumber ds k = some n ∧ (5 ≤ w.stage ∨ n < w.slot)) →
             tableGet SlotImage.free t.mem.slots k =
               (match imageState (tableGet SlotImage.free m.slots k) with
                | some .pending => SlotImage.free
                | none => { tableGet SlotImage.free m.slots k with state := entryCode .suspect }
                | some _ => tableGet SlotImage.free m.slots k)) ∧
           ((∀ n, slotNumber ds k = some n → w.stage < 5 ∧ w.slot ≤ n) →
             tableGet SlotImage.free t.mem.slots k = tableGet SlotImage.free m.slots k)) ∧
         (w.stage < 6 → t.mem.containers = m.containers ∧ t.mem.containersCheck = m.containersCheck) ∧
         (6 ≤ w.stage → ∃ u,
           exec .recovery { s with mif := { s.mif with restartTaken := false } } = .next u ∧ t.mem = u.mem)) ∧
       (s.mif.indexState = .formatting →
         t.mem.header = h ∧
         (m.wf = true → ∀ k,
           ((∃ n, slotNumber ds k = some n ∧ (1 ≤ w.stage ∨ n < w.slot)) →
             tableGet SlotImage.free t.mem.slots k = SlotImage.free) ∧
           ((∀ n, slotNumber ds k = some n → w.stage < 1 ∧ w.slot ≤ n) →
             tableGet SlotImage.free t.mem.slots k = tableGet SlotImage.free m.slots k)) ∧
         (w.stage < 2 → t.mem.containers = m.containers ∧ t.mem.containersCheck = m.containersCheck) ∧
         (2 ≤ w.stage → t.mem.containers = [] ∧ t.mem.containersCheck = areaCheck []) ∧
         (w.stage < 3 → t.mem.settings = m.settings ∧ t.mem.settingsCheck = m.settingsCheck) ∧
         (3 ≤ w.stage → t.mem.settings = defaults ∧ t.mem.settingsCheck = settingsCheckOf defaults))) ∧
   (∀ (s : State) (c : Instr), s.powered = false → (∀ i, c ≠ .powerOn i) → exec c s = .next s))

/-! ## Arrival of frames -/

/-- A frame of any of the thirty-four kinds that passes every check at a receiving port with room joins the queue's tail,
under the port's session number; one that fails a check is answered at once with the refusal of the first check that fails:
QUEUE_FULL, TAG_IN_USE, then checks 4 to 8. FRAMES_IN goes up by 1 in each case (R129, R131, R132, R142, R143, R153). -/
def Obligations.ArrivalAdmitsOrRefuses : Prop :=
  (∀ (s : State) (p : Port) (k : Kind) (f : RequestFrame) (r : Request),
     Receiving s p → HasRoom s p f.tag → arrivalCheck (frameIn p s) p (some k) f = .ok (k, r) →
     exec (arrivalCommand k p f) s =
       .next (updPort p (fun u =>
         { u with
           queue := u.queue ++
             [{ tag := f.tag, kind := k, ns := f.ns.toNat, request := r,
                phase := if requestOwner p r = .ixc then .waiting else .atBlock, context := none,
                mark := (portUnit s p).session, taken := false }] }) (frameIn p s))) ∧
  (∀ (s : State) (p : Port) (k : Kind) (f : RequestFrame), Receiving s p →
     let refused (a : Answer) (t : State) : State :=
       updPort p (fun u => { u with responses := u.responses ++ [{ kind := kindCode k, tag := f.tag, answer := a }] }) t
     (32 ≤ (portUnit s p).queue.length →
       exec (arrivalCommand k p f) s = .next (refused .queueFull (countPort p .queueFulls 1 (frameIn p s)))) ∧
     ((portUnit s p).queue.length < 32 → (∃ e ∈ (portUnit s p).queue, e.tag = f.tag) →
       exec (arrivalCommand k p f) s = .next (refused .tagInUse (frameIn p s))) ∧
     (HasRoom s p f.tag → ∀ a, arrivalCheck (frameIn p s) p (some k) f = .error a →
       exec (arrivalCommand k p f) s = .next (refused a (frameIn p s))))

/-- Checks 4 to 8 in their order, each refusal with its outcome, and what each kind needs: its privilege, the index states
that admit it, and whether it is namespace-checked, writes or releases (R10, R132 to R137). What a frame is read as, or
that it is malformed, is the reading of RequestFramesReadBack. -/
def Obligations.AccessChecksInOrder : Prop :=
  (∀ k : Kind,
    let readers : List Kind :=
      [.identify, .portStatus, .indexStatus, .containerStatus, .findEmpty, .events, .setEventMask, .stats,
       .getParameter, .probe, .probeBatch, .cancel]
    let writers : List Kind :=
      [.lookup, .lookupBatch, .ref, .commit, .abandon, .openContainer, .closeContainer, .move]
    let exempt : List Kind :=
      [.identify, .portStatus, .indexStatus, .events, .setEventMask, .getParameter, .admitPort, .restart]
    (kindPrivilege k = 3 ↔ k ∈ readers) ∧ (kindPrivilege k = 2 ↔ k ∈ writers) ∧
    (kindPrivilege k = 1 ↔ k = .release ∨ k = .releaseBatch ∨ k = .reclaim) ∧
    (kindPrivilege k = 0 ↔
      k ∈ ([.setNamespace, .setPort, .admitPort, .evict, .drop, .restore, .readSlot, .setParameter, .snapshot,
        .format, .restart] : List Kind)) ∧
    (∀ st, kindAllowed k st = true ↔ st = .ready ∨ k ∈ exempt ∨ (k = .format ∧ st = .unformatted)) ∧
    (kindNsChecked k = true ↔
      k ∈ ([.lookup, .probe, .ref, .release, .commit, .lookupBatch, .probeBatch, .releaseBatch, .stats] :
        List Kind)) ∧
    (kindWrites k = true ↔ k = .lookup ∨ k = .lookupBatch ∨ k = .ref ∨ k = .commit) ∧
    (kindReleases k = true ↔ k = .release ∨ k = .releaseBatch)) ∧
  ∀ (s : State) (p : Port) (k : Kind) (f : RequestFrame),
    let u := portUnit s p
    let n := tableGet NsRec.zero s.nst f.ns.toNat
    (u.state = .fenced → k ≠ .identify → k ≠ .portStatus → arrivalCheck s p (some k) f = .error .fenced) ∧
    ((u.state ≠ .fenced ∨ k = .identify ∨ k = .portStatus) →
      (readRequest k f = none → arrivalCheck s p (some k) f = .error .malformed) ∧
      (∀ r, readRequest k f = some r →
        (s.mif.indexState = .ready → (∃ q, requestPosition r = some q ∧ bucketCount s ≤ q.bucket) →
          arrivalCheck s p (some k) f = .error .malformed) ∧
        ((s.mif.indexState ≠ .ready ∨ ∀ q, requestPosition r = some q → q.bucket < bucketCount s) →
          (kindPrivilege k < u.privilege.toNat → arrivalCheck s p (some k) f = .error .denied) ∧
          (u.privilege.toNat ≤ kindPrivilege k →
            (kindAllowed k s.mif.indexState = false →
              arrivalCheck s p (some k) f = .error (.notReady s.mif.indexState)) ∧
            (kindAllowed k s.mif.indexState = true →
              (kindNsChecked k = false → arrivalCheck s p (some k) f = .ok (k, r)) ∧
              (kindNsChecked k = true →
                ((u.privilege ≠ 0#2 ∧ u.nsMap.getLsbD f.ns.toNat = false) ∨ n.state = .disabled →
                  arrivalCheck s p (some k) f = .error .denied) ∧
                ((u.privilege = 0#2 ∨ u.nsMap.getLsbD f.ns.toNat = true) → n.state ≠ .disabled →
                  (n.state = .readOnly → kindWrites k = true → arrivalCheck s p (some k) f = .error .readOnly) ∧
                  ((n.state ≠ .readOnly ∨ kindWrites k = false) →
                    (n.hold = true → kindReleases k = true → arrivalCheck s p (some k) f = .error .held) ∧
                    ((n.hold = false ∨ kindReleases k = false) →
                      arrivalCheck s p (some k) f = .ok (k, r))))))))))

/-- A kind code that names no kind is tested as every frame: QUEUE_FULL, TAG_IN_USE and FENCED come first, then MALFORMED
(R132 to R134). A frame at a port whose response list holds 32 or more, or once a RESTART is taken, is discarded before its
frame check, and a DOWN port receives none (R143, R146, R147, R177); that a frame at a DOWN port leaves the state exactly as
it is, its symbols not taking the port to FENCED, is the model's reading (log 15). A bad frame at a receiving port is counted
in FRAMES_BAD and raises FRAME_ERROR (R131, R180). -/
def Obligations.FramesThatAreNoRequests : Prop :=
  (∀ (s : State) (p : Port) (code : Byte) (f : RequestFrame), Receiving s p → kindOfCode code = none →
     let refused (a : Answer) (t : State) : State :=
       updPort p (fun u => { u with responses := u.responses ++ [{ kind := code, tag := f.tag, answer := a }] }) t
     (32 ≤ (portUnit s p).queue.length →
       exec (.unknownKindCode p code f) s = .next (refused .queueFull (countPort p .queueFulls 1 (frameIn p s)))) ∧
     ((portUnit s p).queue.length < 32 → (∃ e ∈ (portUnit s p).queue, e.tag = f.tag) →
       exec (.unknownKindCode p code f) s = .next (refused .tagInUse (frameIn p s))) ∧
     (HasRoom s p f.tag → (portUnit s p).state = .fenced →
       exec (.unknownKindCode p code f) s = .next (refused .fenced (frameIn p s))) ∧
     (HasRoom s p f.tag → (portUnit s p).state = .online →
       exec (.unknownKindCode p code f) s = .next (refused .malformed (frameIn p s)))) ∧
  (∀ (s : State) (p : Port) (r : Reception), s.powered = true →
     ((portUnit s p).state ≠ .down → (32 ≤ (portUnit s p).responses.length ∨ s.mif.restartTaken = true) →
       exec (.frameDiscardedListFull p r) s = .next (updPort p (fun u => { u with symbolSeen := true }) s)) ∧
     ((portUnit s p).state = .down → exec (.frameDiscardedListFull p r) s = .next s ∧ exec (.badFrame p r) s = .next s)) ∧
  (∀ (s : State) (p : Port) (r : Reception), Receiving s p → receptionIsBad r = true →
     exec (.badFrame p r) s =
       .next (raiseTo p .frameError (countPort p .framesBad 1 (updPort p (fun u => { u with symbolSeen := true }) s))))

/-- The bytes that a master sends for a frame of a kind hold their check and are received as that kind's request
(R180, R181, R184; that bytes are received so is log 26). -/
def Obligations.SentBytesAreReceivedAsTheirRequest : Prop :=
  ∀ (s : State) (p : Port) (k : Kind) (f : RequestFrame), Receiving s p → f.wf = true →
    receptionIsBad (.whole (requestBytes (kindCode k) f)) = false ∧
    readFrame (requestBytes (kindCode k) f) = (kindCode k, f) ∧
    exec (.badFrame p (.whole (requestBytes (kindCode k) f))) s = execRequest k p f s

/-- A response wholly transmitted leaves the list from its head, and its frame is the one on the link; one begun before the
list was discarded goes first. A transmitter with no response sends idle symbols; those silenced by a RESTART send nothing,
and send again after 20 milliseconds (R143, R147, R159, R177; log 16). That SILENCE_END may be given after its due time,
the transmitters silent till then, is the model's choice (log 12), as it is that it changes nothing before it (log 3). A
response frame is its header, its body and the frame check, with the outcome codes and bodies of R180, R182 and R184;
widths that the spec does not name are the model's (log 22), bits 2 to 7 of the flags of DUPLICATE as 0 (log 48), and so
are the constants without a value (log 21) and the low 32 bits of a large count (log 36). -/
def Obligations.TransmitterSendsInOrder : Prop :=
  (∀ r : Response,
    let head := [r.kind, answerCode r.answer] ++ beBytes 2 r.tag.toNat ++ beBytes 2 (answerBytes r.answer).length
    responseBytes r =
      head ++ answerBytes r.answer ++ beBytes 4 (crc32 (head ++ answerBytes r.answer)).toNat) ∧
  (let coded (a : Answer) (code : Byte) (body : List Byte) : Prop := answerCode a = code ∧ answerBytes a = body
   let location (l : Location) : List Byte :=
     beBytes 2 l.container.toNat ++ beBytes 4 l.offset.toNat ++ beBytes 4 l.length.toNat
   let flag (b : Bool) : Byte := if b = true then 1#8 else 0#8
   let edge (m : EdgeMode) : Byte := if m = .both then 1#8 else 0#8
   let portState (x : PortState) : Byte := match x with | .down => 0#8 | .fenced => 1#8 | .online => 2#8
   let indexState (x : IndexState) : Byte :=
     match x with
     | .noMemory => 0#8 | .unformatted => 1#8 | .recovering => 2#8 | .formatting => 3#8 | .ready => 4#8
   let entryState (x : EntryState) : Byte :=
     match x with
     | .free => 0#8 | .pending => 1#8 | .stored => 2#8 | .zero => 3#8 | .pinned => 4#8 | .suspect => 5#8
   let counters (l : List Counter) : List Byte := l.flatMap (fun c => beBytes 6 c.value ++ [flag c.saturated])
   (∀ l a b, coded (.index (.duplicate l a b)) 0x01#8
     (location l ++ [BitVec.ofNat 8 ((if a = true then 1 else 0) + (if b = true then 2 else 0))])) ∧
   (∀ t n, coded (.index (.claimed t n)) 0x02#8
     (beBytes 2 t.startCount.toNat ++ beBytes 2 t.claim.toNat ++ beBytes 4 t.generation.toNat ++ beBytes 1 n)) ∧
   coded .committed 0x03#8 [] ∧ (∀ r, coded (.index (.released r)) 0x04#8 (beBytes 2 r.toNat)) ∧
   (∀ st l, coded (.index (.probeHit st l)) 0x05#8 ([entryState st] ++ location l)) ∧
   coded (.index .probeMiss) 0x06#8 [] ∧ (∀ c, coded (.index (.inProgress c)) 0x07#8 (beBytes 2 c.toNat)) ∧
   coded (.index .withdrawn) 0x08#8 [] ∧ coded (.index .notTaken) 0x0A#8 [] ∧ coded .queueFull 0x40#8 [] ∧
   coded .tagInUse 0x41#8 [] ∧ coded .fenced 0x42#8 [] ∧ coded .malformed 0x43#8 [] ∧ coded .denied 0x44#8 [] ∧
   (∀ st, coded (.notReady st) 0x45#8 [indexState st]) ∧ coded .readOnly 0x46#8 [] ∧ coded .held 0x47#8 [] ∧
   coded (.index .badFingerprint) 0x48#8 [] ∧ coded (.index .noRoom) 0x49#8 [] ∧
   coded (.index (.retry .claimsFull)) 0x4A#8 [1#8] ∧ coded (.index (.retry .waitersFull)) 0x4A#8 [2#8] ∧
   coded (.index (.retry .noContext)) 0x4A#8 [3#8] ∧ coded (.index .notFound) 0x4B#8 [] ∧
   coded (.index .underflow) 0x4C#8 [] ∧ coded (.index .pinned) 0x4D#8 [] ∧ coded (.index .suspect) 0x4E#8 [] ∧
   coded .late 0x4F#8 [] ∧ coded .mismatch 0x50#8 [] ∧ coded .notOwner 0x51#8 [] ∧ coded .overlap 0x52#8 [] ∧
   coded .containerFull 0x53#8 [] ∧ coded .openLimit 0x54#8 [] ∧ coded .noContainer 0x55#8 [] ∧
   coded .notEmpty 0x56#8 [] ∧ coded .wrongState 0x57#8 [] ∧ coded .wrongLocation 0x58#8 [] ∧
   coded .lengthMismatch 0x59#8 [] ∧ coded .checkFail 0x5A#8 [] ∧ coded .tooLate 0x5B#8 [] ∧
   (∀ (o : IndexOutcome),
     itemRecord o =
       [answerCode (.index o)] ++ answerBytes (.index o) ++
         List.replicate (11 - (answerBytes (.index o)).length) 0#8 ∧ (itemRecord o).length = 12) ∧
   (∀ (cursor : Nat) (items : List IndexOutcome),
     let count (code : Nat) : Nat := items.countP (fun o => decide ((answerCode (.index o)).toNat = code))
     let codes := (List.range 256).filter (fun code => decide (count code ≠ 0))
     let body :=
       beBytes 1 cursor ++ beBytes 1 items.length ++ items.flatMap itemRecord ++ beBytes 1 codes.length ++
         codes.flatMap (fun code => beBytes 1 code ++ beBytes 1 (count code))
     coded (.batchDone cursor items) 0x00#8 body ∧ coded (.cancelled cursor items) 0x09#8 body) ∧
   coded (.done .none) 0x00#8 [] ∧
   (∀ r : Identity, coded (.done (.identity r)) 0x00#8
     (beBytes 2 Config.vendorCode.toNat ++ beBytes 2 4160 ++ [Config.revision] ++ beBytes 2 r.startCount.toNat ++
       (fourList r.modules).flatMap (fun m =>
         [m.1, match m.2 with | .counted => 0#8 | .unfitted => 1#8 | .invalid => 2#8 | .ignored => 3#8]) ++
       beBytes 4 r.capacity ++ beBytes 4 r.bucketCount ++
       (match r.recordedCapacity with | some c => [1#8] ++ beBytes 4 c.toNat | none => [0#8, 0#8, 0#8, 0#8, 0#8]) ++
       [flag r.settingsDefaulted, flag r.containerRebuilt])) ∧
   (∀ r : PortReport, coded (.done (.portReport r)) 0x00#8
     (beBytes 1 (portNumber r.port) ++ beBytes 1 r.privilege.toNat ++ [portState r.state] ++
       (fourList r.states).map portState ++ [flag r.autoAdmit, flag r.suppression, flag r.persistenceMet] ++
       [BitVec.ofNat 8 ((if r.teardownCtu = true then 1 else 0) + (if r.teardownBte = true then 2 else 0) +
         (if r.teardownClu = true then 4 else 0))] ++
       (beBytes 8 r.nsMap.toNat).reverse ++ beBytes 2 r.session.toNat ++ beBytes 4 r.queued ++
       beBytes 4 r.openCount ++ beBytes 2 r.events.toNat)) ∧
   (∀ r : IndexReport, coded (.done (.indexReport r)) 0x00#8
     ([indexState r.state] ++ beBytes 4 r.occupancy ++ beBytes 4 r.capacity ++ beBytes 4 r.claimsInUse ++
       beBytes 4 r.waitersInUse ++ beBytes 4 r.freeCount ++ beBytes 4 r.cursor ++ beBytes 4 r.passCount.toNat ++
       beBytes 5 r.clock.toNat)) ∧
   (∀ c : ContainerRec, coded (.done (.container c)) 0x00#8
     ([match c.state with | .free => 0#8 | .opened => 1#8 | .closed => 2#8] ++ beBytes 1 (portNumber c.owner) ++
       beBytes 4 c.fill ++ beBytes 4 c.live ++ beBytes 4 c.bytes)) ∧
   coded (.done (.found none)) 0x00#8 [0#8, 0#8, 0#8] ∧
   (∀ c, coded (.done (.found (some c))) 0x00#8 ([1#8] ++ beBytes 2 c)) ∧
   (∀ c, coded (.done (.opened c)) 0x00#8 (beBytes 2 c)) ∧
   (∀ set o l, coded (.done (.eventSet set o l)) 0x00#8 (beBytes 2 set.toNat ++ [flag o, flag l])) ∧
   (∀ mask o l, coded (.done (.eventMask mask o l)) 0x00#8 (beBytes 2 mask.toNat ++ [edge o, edge l])) ∧
   (∀ seq a b, coded (.done (.stats seq a b)) 0x00#8 (beBytes 4 seq.toNat ++ counters a ++ counters b)) ∧
   (∀ v, coded (.done (.parameter v)) 0x00#8 (beBytes 4 v)) ∧
   (∀ im c, coded (.done (.slot im c)) 0x00#8
     ([im.state] ++ beBytes 32 im.fp.toNat ++ beBytes 2 im.refcount.toNat ++ location im.loc ++ [im.ns] ++
       beBytes 2 im.claim.toNat ++ beBytes 5 im.zeroSince.toNat ++ beBytes 2 im.check.toNat ++ [flag c])) ∧
   (∀ r : NsRec, coded (.done (.namespaceRec r)) 0x00#8
     [match r.state with | .disabled => 0#8 | .active => 1#8 | .readOnly => 2#8, flag r.hold]) ∧
   (∀ r : PortSetting, coded (.done (.portSetting r)) 0x00#8 ((beBytes 8 r.nsMap.toNat).reverse ++ [flag r.autoAdmit])) ∧
   (∀ seq, coded (.done (.sequence seq)) 0x00#8 (beBytes 4 seq.toNat))) ∧
  (∀ (s : State) (p : Port),
    (s.powered = false ∨ s.mif.silenced = true → transmitting s p = .silent) ∧
    (s.powered = true → s.mif.silenced = false →
      (∀ r, (portUnit s p).finishing = some r → transmitting s p = .response r) ∧
      (∀ r rest, (portUnit s p).finishing = none → (portUnit s p).responses = r :: rest →
        transmitting s p = .response r) ∧
      ((portUnit s p).finishing = none → (portUnit s p).responses = [] →
        transmitting s p = .idle ∧ exec (.responseTransmitted p) s = .next s))) ∧
  (∀ (q : List Instr) (out : Four (List Byte)) (m : IndexMemory) (i : StartInputs) (st : IndexState) (p : Port),
    transmitting (State.afterReset q out m i st) p = .idle) ∧
  ∀ (s : State) (p : Port), s.powered = true →
    (∀ r rest, s.mif.silenced = false → (portUnit s p).finishing = none → (portUnit s p).responses = r :: rest →
      exec (.responseTransmitted p) s =
        .next { updPort p (fun u => { u with responses := rest }) s with
          linkOut := fourSet s.linkOut p (responseBytes r) }) ∧
    (∀ r, s.mif.silenced = false → (portUnit s p).finishing = some r →
      exec (.responseTransmitted p) s =
        .next { updPort p (fun u => { u with finishing := none }) s with
          linkOut := fourSet s.linkOut p (responseBytes r) }) ∧
    (s.mif.silenced = true → exec (.responseTransmitted p) s = .next s) ∧
    (s.mif.silenced = true → 20 ≤ s.mif.silenceMs →
      exec .silenceEnd s = .next { s with mif := { s.mif with silenced := false } }) ∧
    (s.mif.silenced = true → s.mif.silenceMs < 20 → exec .silenceEnd s = .next s)

/-- A request taken in the event of its arrival is its arrival and then its taking (R132, R142), and a turn taken whole is
its grant and then its end, for every kind of turn (R19, R20); a container request answered as it is taken is its taking
and then the handing of its outcome (R88, R143). That commands may be cut so is the model's choice (log 2, log 38). -/
def Obligations.TwoStepsAreOneWhole : Prop :=
  (∀ (s t : State) (p : Port) (k : Kind) (f : RequestFrame) (r : Request) (c : Instr),
     Receiving s p → HasRoom s p f.tag → arrivalCheck (frameIn p s) p (some k) f = .ok (k, r) →
     blockCommand k p (.whole f) = some c → exec (arrivalCommand k p f) s = .next t →
     ∀ c', blockCommand k p (.take f.tag) = some c' → exec c s = exec c' t) ∧
  (∀ (s : State) (c : OpStep → Instr),
     (c = .commitEntryUpdate ∨ c = .freeingUpdate ∨ c = .batchItemOperation ∨ c = .sweeperBucketOperation ∨
       ∃ k p, ∀ st, turnCommand k p st = some (c st)) →
     ∀ t, exec (c .grant) s = .next t → t.ixc.inProgress ≠ none → s.ixc.inProgress = none → s.powered = true →
       exec (c .whole) s = exec (c .finish) t) ∧
  (∀ (s t : State) (p : Port) (e : QEntry) (c cf ch : Instr), CanTake s p e →
     containerCommand e.kind p (.request (.take e.tag)) = some c → containerCommand e.kind p (.fix e.tag) = some cf →
     containerCommand e.kind p (.hand e.tag) = some ch →
     (∀ o ∈ s.ctu.outcomes, o.kind = e.kind → o.port = p → o.tag ≠ e.tag) → exec cf s = .next t →
     exec ch t = exec c s)

/-- A request admitted while the index was READY and taken after a FORMAT has begun is answered NOT_READY with the index
state, and changes no record (R70, R112, R136). -/
def Obligations.RequestTakenOutsideReadyIsNotReady : Prop :=
  ∀ (s : State) (p : Port) (e : QEntry) (c : Instr),
    s.powered = true → takeable s p e.kind e.tag = some e → kindAllowed e.kind s.mif.indexState = false →
    IsQueued s p e → s.mif.restartTaken = false →
    (blockCommand e.kind p (.take e.tag) = some c ∨ containerCommand e.kind p (.fix e.tag) = some c ∨
      (e.kind = .setParameter ∧ c = .setParameter p (.write e.tag))) →
    exec c s = .next (answered p e (.notReady s.mif.indexState) s)

/-- An outcome is sent only under the port's present session number and for a queued request, and not once a RESTART is
taken: then the request leaves the queue and its one response joins the list. An outcome under another session number or
for a request no longer queued changes nothing (R143, R153), and once a RESTART is taken it makes no response, the request
staying queued as taken (R142, R177). A container request may be taken with its outcome handed over in a later event: its
effects are those of one answered at once, and if its port has left ONLINE in between they stand and no response is made
(R88, R153); that both forms are taken, and outcomes of one port in any order, is the model's choice (log 38). -/
def Obligations.OutcomeIsSentOnceOrDropped : Prop :=
  (∀ (s : State) (p : Port) (tag : Tag) (mark : Session) (a : Answer),
    (∀ e, queued s p tag = some e → mark = (portUnit s p).session → s.mif.restartTaken = false →
      answer p tag mark a s = answered p e a s ∧
      (portUnit (answer p tag mark a s) p).responses =
        (portUnit s p).responses ++ [{ kind := kindCode e.kind, tag := tag, answer := a }] ∧
      queued (answer p tag mark a s) p tag = none) ∧
    (queued s p tag = none ∨ mark ≠ (portUnit s p).session → answer p tag mark a s = s) ∧
    (∀ e, queued s p tag = some e → mark = (portUnit s p).session → s.mif.restartTaken = true →
      answer p tag mark a s = updEntry p tag (fun x => { x with taken := true }) s)) ∧
  (∀ (s : State) (p : Port) (e : QEntry) (c cf : Instr), CanTake s p e →
    containerCommand e.kind p (.request (.take e.tag)) = some c → containerCommand e.kind p (.fix e.tag) = some cf →
    ∃ a t, exec c s = .next (answered p e a t) ∧ queued t p e.tag = some e ∧ t.ctu.outcomes = s.ctu.outcomes ∧
      exec cf s = .next { updEntry p e.tag (fun x => { x with taken := true }) t with
        ctu := { t.ctu with
          outcomes := s.ctu.outcomes ++
            [{ port := p, kind := e.kind, tag := e.tag, mark := e.mark, answer := a }] } }) ∧
  (∀ (s : State) (p : Port) (k : Kind) (tag : Tag) (c : Instr), s.powered = true →
    containerCommand k p (.hand tag) = some c →
    let named (o : CtuOutcome) : Prop := o.kind = k ∧ o.port = p ∧ o.tag = tag
    ((∀ o ∈ s.ctu.outcomes, ¬ named o) → exec c s = .next s) ∧
    (∀ pre o post, s.ctu.outcomes = pre ++ o :: post → named o → (∀ x ∈ pre, ¬ named x) →
      let s0 : State := { s with ctu := { s.ctu with outcomes := pre ++ post } }
      exec c s = .next (answer p tag o.mark o.answer s0) ∧
      (queued s p tag = none ∨ o.mark ≠ (portUnit s p).session → exec c s = .next s0)))

/-! ## Status, parameters, clock and restart -/

/-- The status requests are answered DONE with the values as they stand, and change nothing else; the order of the counters
in STATS is the model's (log 41), and GET_PARAMETER of LOSS_WINDOW_MS reports the value at the port unit of the port that
asks, which is the model's choice where the four differ (log 50). A module slot is invalid by its descriptor, unfitted by size code 0, and counted up to the
first slot that is unfitted or invalid (R68, R71, R77, R95, R158, R165, R171, R178, R179). -/
def Obligations.StatusRequestsReport : Prop :=
  (∀ (ds : Four Descriptor) (m : Port),
    let valid (d : Descriptor) : Prop := d.check = d.size ^^^ 0xFF#8 ∧ d.size.toNat ≤ 3
    let slots (d : Descriptor) : Nat :=
      if d.size = 1#8 then 16777216 else if d.size = 2#8 then 33554432 else 67108864
    (¬ valid (fourGet ds m) → moduleStatus ds m = .invalid) ∧
    (valid (fourGet ds m) → (fourGet ds m).size = 0#8 → moduleStatus ds m = .unfitted) ∧
    (valid (fourGet ds m) → (fourGet ds m).size ≠ 0#8 →
      ((∀ n, portNumber n < portNumber m → valid (fourGet ds n) ∧ (fourGet ds n).size ≠ 0#8) →
        moduleStatus ds m = .counted) ∧
      ((∃ n, portNumber n < portNumber m ∧ (¬ valid (fourGet ds n) ∨ (fourGet ds n).size = 0#8)) →
        moduleStatus ds m = .ignored)) ∧
    capacityOf ds = (allPorts.map (fun n => if moduleStatus ds n = .counted then slots (fourGet ds n) else 0)).sum) ∧
  ∀ (s : State) (p : Port) (e : QEntry), CanTake s p e →
    (e.kind = .identify → exec (.identify p (.take e.tag)) s = .next (answered p e (.done (.identity
      { startCount := s.mif.startCount,
        modules := fourOf (fun m => ((fourGet s.mif.descriptors m).size, moduleStatus s.mif.descriptors m)),
        capacity := capacityOf s.mif.descriptors, bucketCount := capacityOf s.mif.descriptors / 8,
        recordedCapacity :=
          if s.mif.indexState ≠ .noMemory ∧ headerValid s.mem.header = true ∧
              s.mem.header.capacity.toNat ≠ capacityOf s.mif.descriptors
          then some s.mem.header.capacity else none,
        settingsDefaulted := s.mif.settingsDefaulted, containerRebuilt := s.mif.containerRebuilt })) s)) ∧
    (e.kind = .portStatus → exec (.portStatus p (.take e.tag)) s = .next (answered p e (.done (.portReport
      { port := p, privilege := (portUnit s p).privilege, state := (portUnit s p).state,
        states := fourOf (fun q => (portUnit s q).state), autoAdmit := (portUnit s p).autoAdmit,
        suppression := (portUnit s p).suppression, persistenceMet := (portUnit s p).persistenceMet,
        teardownCtu := (portUnit s p).teardownCtu, teardownBte := (portUnit s p).teardownBte,
        teardownClu := (portUnit s p).teardownClu, nsMap := (portUnit s p).nsMap,
        session := (portUnit s p).session, queued := (portUnit s p).queue.length,
        openCount := fourGet s.ctu.openCount p, events := (portUnit s p).events })) s)) ∧
    (e.kind = .indexStatus → exec (.indexStatus p (.take e.tag)) s = .next (answered p e (.done (.indexReport
      { state := s.mif.indexState, occupancy := s.ixc.occupancy, capacity := capacityOf s.mif.descriptors,
        claimsInUse := s.clu.claims.countP (fun x => decide (x.2.phase ≠ .free)),
        waitersInUse := (s.clu.claims.map (fun x => x.2.waiters.length)).sum,
        freeCount := s.ctu.freeList.length, cursor := s.swp.cursor, passCount := s.swp.passCount,
        clock := s.tmb.clock })) s)) ∧
    (e.kind = .stats → exec (.stats p (.take e.tag)) s = .next (answered p e (.done (.stats s.stu.sequence
      ((List.range 10).map (fun c => tableGet Counter.zero s.stu.snap (e.ns * 10 + c)))
      ((List.range 4).map (fun c => tableGet Counter.zero s.stu.snap (640 + portNumber p * 4 + c))))) s)) ∧
    (∀ q, e.request = .getParameter q → e.kind = .getParameter →
      exec (.getParameter p (.take e.tag)) s = .next (answered p e (.done (.parameter
        (if q = .lossWindowMs then lossWindow s p else paramValue s.params q))) s)) ∧
    (∀ c, e.request = .containerStatus c → e.kind = .containerStatus →
      exec (.containerStatus p (.request (.take e.tag))) s = .next (answered p e (.done (.container (containerGet s c))) s))

/-- SET_PARAMETER is two events. The memory interface writes the value to the settings area with its check and hands it to
the owner; the owner's event puts it in force with the owner's effects and answers the request DONE with the value. For
LOSS_WINDOW_MS each port unit has an event, and the last of the four ends the change. Changes of one parameter are taken in
the order in which they were written (R12, R86, R97, R153, R163, R173, R178). An owner may take its change in the event of
the memory interface, as take does, or later, the claim unit not within an update of its own (R44): that both forms are
taken is the model's choice (log 39). A value in range set is the value read, enumerated ones by their codes, and no other
parameter changes (R178, R184). -/
def Obligations.SetParameterTakesEffect : Prop :=
  (∀ v : Params,
    paramValue v .claimWindowMs = v.claimWindowMs ∧
    paramValue v .sweepMode = (match v.sweepMode with | .off => 0 | .purge => 1 | .scrub => 2) ∧
    paramValue v .sweepRate = v.sweepRate ∧ paramValue v .graceS = v.graceS ∧
    paramValue v .statsMode = (match v.statsMode with | .interval => 0 | .manual => 1) ∧
    paramValue v .statsIntervalS = v.statsIntervalS ∧ paramValue v .occupancyPct = v.occupancyPct ∧
    paramValue v .containersLowCount = v.containersLowCount ∧ paramValue v .lossWindowMs = v.lossWindowMs) ∧
  (∀ (v : Params) (q : Param) (x : Nat), requestInRange (.setParameter q x) = true →
    paramValue (paramSet v q x) q = x ∧ ∀ r, r ≠ q → paramValue (paramSet v q x) r = paramValue v r) ∧
  (∀ (s : State) (p : Port) (e : QEntry) (q : Param) (v : Nat), CanTake s p e → e.kind = .setParameter →
    e.request = .setParameter q v →
    let area : Settings := { s.mem.settings with params := paramSet s.mem.settings.params q v }
    let written : IndexMemory := { s.mem with settings := area, settingsCheck := settingsCheckOf area }
    let change : ParamChange :=
      { port := p, tag := e.tag, mark := e.mark, param := q, value := v, units := ⟨false, false, false, false⟩ }
    let h : State :=
      { updEntry p e.tag (fun x => { x with taken := true }) s with
        mem := written, mif := { s.mif with changes := s.mif.changes ++ [change] } }
    let busy : Prop :=
      q = .claimWindowMs ∧ ∃ n, s.ixc.inProgress = some (.entryUpdate n) ∨ s.ixc.inProgress = some (.freeing n)
    let take : Instr := .setParameter p (.request (.take e.tag))
    exec (.setParameter p (.write e.tag)) s = .next h ∧
    ((∃ x ∈ s.mif.changes, x.param = q) ∨ busy → exec take s = .next h) ∧
    ((∀ x ∈ s.mif.changes, x.param ≠ q) → q ≠ .lossWindowMs → exec take s = exec (.setParameter p (.own q)) h) ∧
    ((∀ x ∈ s.mif.changes, x.param ≠ q) → q = .lossWindowMs → ∃ a b c,
      exec (.setParameter p (.unit .p0)) h = .next a ∧ exec (.setParameter p (.unit .p1)) a = .next b ∧
      exec (.setParameter p (.unit .p2)) b = .next c ∧ exec (.setParameter p (.unit .p3)) c = exec take s) ∧
    ((∀ x ∈ s.mif.changes, x.param ≠ q) → ¬ busy → ∃ t, exec take s = .next t ∧ ParamInForce q v s t ∧
      t.mem = written ∧ t.mif = s.mif ∧
      (portUnit t p).queue = (portUnit s p).queue.filter (fun x => decide (x.tag ≠ e.tag)) ∧
      (portUnit t p).responses =
        (portUnit s p).responses ++ [{ kind := kindCode e.kind, tag := e.tag, answer := .done (.parameter v) }] ∧
      (q ≠ .occupancyPct → q ≠ .containersLowCount → ∀ r, r ≠ p → portUnit t r = portUnit s r))) ∧
  (∀ (s : State) (p : Port) (q : Param), s.powered = true →
    (q = .lossWindowMs ∨ (∀ x ∈ s.mif.changes, x.param ≠ q) → exec (.setParameter p (.own q)) s = .next s) ∧
    ∀ c pre post, s.mif.changes = pre ++ c :: post → c.param = q → q ≠ .lossWindowMs →
      (∀ x ∈ pre, x.param ≠ q) →
      let busy : Prop :=
        q = .claimWindowMs ∧ ∃ n, s.ixc.inProgress = some (.entryUpdate n) ∨ s.ixc.inProgress = some (.freeing n)
      (c.port ≠ p ∨ busy → exec (.setParameter p (.own q)) s = .next s) ∧
      (c.port = p → ¬ busy → ∃ t,
        exec (.setParameter p (.own q)) s = .next (answer p c.tag c.mark (.done (.parameter c.value)) t) ∧
        ParamInForce q c.value s t ∧ t.mem = s.mem ∧ t.mif = { s.mif with changes := pre ++ post } ∧
        (∀ r, ∃ set attn occ low, portUnit t r =
          { portUnit s r with events := set, attn := attn, occSignalled := occ, lowSignalled := low }) ∧
        (q ≠ .occupancyPct → q ≠ .containersLowCount → t.ports = s.ports))) ∧
  (∀ (s : State) (p u : Port), s.powered = true →
    let mine (x : ParamChange) : Prop := x.param = .lossWindowMs ∧ fourGet x.units u = false
    ((∀ x ∈ s.mif.changes, ¬ mine x) → exec (.setParameter p (.unit u)) s = .next s) ∧
    ∀ c pre post, s.mif.changes = pre ++ c :: post → mine c → (∀ x ∈ pre, ¬ mine x) →
      (c.port ≠ p → exec (.setParameter p (.unit u)) s = .next s) ∧
      (c.port = p → (∃ v, v ≠ u ∧ fourGet c.units v = false) →
        exec (.setParameter p (.unit u)) s =
          .next { s with mif := { s.mif with
            changes := pre ++ { c with units := fourSet c.units u true } :: post } }) ∧
      (c.port = p → (∀ v, v ≠ u → fourGet c.units v = true) →
        exec (.setParameter p (.unit u)) s =
          .next (answer p c.tag c.mark (.done (.parameter c.value))
            { s with
              params := { s.params with lossWindowMs := c.value }, mif := { s.mif with changes := pre ++ post } }))) ∧
  ∀ (s : State) (u : Port),
    let took (x : ParamChange) : Prop := x.param = .lossWindowMs ∧ fourGet x.units u = true
    ((∀ x ∈ s.mif.changes, ¬ took x) → lossWindow s u = s.params.lossWindowMs) ∧
    ∀ c pre post, s.mif.changes = pre ++ c :: post → took c → (∀ x ∈ post, ¬ took x) → lossWindow s u = c.value

/-- A second of the loaded index clock raises it by 1, and at 2^40 - 1 it stays; a save that is due is made first, which is
the model's order (log 30). INDEX_CLOCK_ADVANCE and CLOCK_SAVE may be given after their due times (log 12) and change
nothing before them (log 3): both are the model's choice. A save writes the clock into the header with a fresh check when
the clock is 60 above the value last written (R92, R93, R173). -/
def Obligations.IndexClockAdvancesAndIsSaved : Prop :=
  ∀ (s : State), s.powered = true → s.tmb.clockLoaded = true →
    let saved : Header :=
      { s.mem.header with
        clock := s.tmb.clock, check := crc16 (headerBytes { s.mem.header with clock := s.tmb.clock }) }
    (s.mem.header.clock.toNat + 60 ≤ s.tmb.clock.toNat →
      exec .clockSave s = .next { s with mem := { s.mem with header := saved } }) ∧
    (s.tmb.clock.toNat < s.mem.header.clock.toNat + 60 → exec .clockSave s = .next s) ∧
    (1000 ≤ s.tmb.secondMs → ∃ t, exec .indexClockAdvance s = .next t ∧
      t.tmb.clock.toNat = min (2 ^ 40 - 1) (s.tmb.clock.toNat + 1) ∧ t.tmb.secondMs = s.tmb.secondMs - 1000 ∧
      t.mem = (if s.mem.header.clock.toNat + 60 ≤ s.tmb.clock.toNat then { s.mem with header := saved } else s.mem) ∧
      t.ports = s.ports ∧ t.ixc = s.ixc ∧ t.clu = s.clu ∧ t.ctu = s.ctu ∧ t.bte = s.bte ∧ t.swp = s.swp ∧
      t.nst = s.nst ∧ t.stu = s.stu ∧ t.mif = s.mif ∧ t.params = s.params ∧ t.tmb.ms = s.tmb.ms) ∧
    (s.tmb.secondMs < 1000 → exec .indexClockAdvance s = .next s)

/-- RESTART is answered DONE in the event that takes it, and no port takes a frame's arrival afterwards. Its reset finishes
the responses, ends a recovery or FORMAT that runs, with index memory as a loss of supply at that point leaves it (R175,
R176; the points of a cut are the model's, log 19), saves a loaded clock, silences the transmitters, and resets every block
with straps and descriptors read again and index memory kept, its modules where they stand now (R93, R171, R172, R177; log
5). The reset waits for the operation in progress (R19, R177); its command changes nothing before (log 3). A request that
another block still takes in that time (log 18) is taken once, with no response (R142, R177). -/
def Obligations.RestartIsAnsweredAndResets : Prop :=
  (∀ (s : State) (p : Port) (e : QEntry), CanTake s p e → e.kind = .restart →
     ∃ t, exec (.restart p (.take e.tag)) s = .next t ∧
       t = { answered p e (.done .none) s with mif := { s.mif with restartTaken := true } } ∧
       ∀ (q : Port) (k : Kind) (f : RequestFrame), (portUnit t q).state ≠ .down →
         exec (arrivalCommand k q f) t = .next (updPort q (fun u => { u with symbolSeen := true }) t)) ∧
  (∀ (s : State) (i : StartInputs) (w : WalkPoint), s.powered = true → s.mif.restartTaken = true →
     s.ixc.inProgress = none →
     ∃ t u m st, exec (.restartReset i w) s = .next t ∧ exec (.powerLoss w) s = .next u ∧
       let saved :=
         if s.tmb.clockLoaded = true then memHeader (fun h => { h with clock := s.tmb.clock }) u.mem else u.mem
       let out := fourOf (fun q =>
         match ((portUnit s q).finishing.toList ++ (portUnit s q).responses).getLast? with
         | some r => responseBytes r
         | none => fourGet s.linkOut q)
       t = { State.afterReset s.pending out m i st with
         mif := { (State.afterReset s.pending out m i st).mif with silenced := true, silenceMs := 0 } } ∧
       ModulesMoved i.stood saved m ∧
       (capacityOf i.descriptors = 0 → st = .noMemory) ∧
       (capacityOf i.descriptors ≠ 0 → headerValid m.header = true → m.header.capacity.toNat = capacityOf i.descriptors →
         st = .recovering) ∧
       (capacityOf i.descriptors ≠ 0 →
         (headerValid m.header = false ∨ m.header.capacity.toNat ≠ capacityOf i.descriptors) → st = .unformatted)) ∧
  (∀ (s : State) (i : StartInputs) (w : WalkPoint), s.mif.restartTaken = false ∨ s.ixc.inProgress ≠ none →
     exec (.restartReset i w) s = .next s) ∧
  (∀ (s : State) (p : Port) (e : QEntry) (c : Instr), s.powered = true → s.mif.restartTaken = true →
     takeable s p e.kind e.tag = some e → e.mark = (portUnit s p).session →
     blockCommand e.kind p (.take e.tag) = some c →
     ∃ t, exec c s = .next t ∧ (∀ q, (portUnit t q).responses = (portUnit s q).responses) ∧ exec c t = .next t)

/-! ## Recovery -/

/-- Recovery advances the start count, resumes the clock 60 above the saved value, loads the settings or the defaults, and
makes the index READY with INDEX_READY raised (R92, R93, R163, R173 to R175, R179). -/
def Obligations.RecoveryLoadsHeaderAndSettings : Prop :=
  ∀ (s : State), s.powered = true → s.mif.indexState = .recovering → s.mif.restartTaken = false →
    ∃ t, exec .recovery s = .next t ∧ t.mif.indexState = .ready ∧
      t.mif.startCount = s.mem.header.startCount + 1#16 ∧
      t.tmb.clock.toNat = min (2 ^ 40 - 1) (s.mem.header.clock.toNat + 60) ∧ t.tmb.clockLoaded = true ∧
      t.mem.header.startCount = s.mem.header.startCount + 1#16 ∧ t.mem.header.clock = t.tmb.clock ∧
      t.mem.header.mark = s.mem.header.mark ∧ t.mem.header.capacity = s.mem.header.capacity ∧
      t.mem.header.check = crc16 (headerBytes t.mem.header) ∧
      (s.mem.settingsCheck = settingsCheckOf s.mem.settings →
        t.params = s.mem.settings.params ∧ t.nst = s.mem.settings.namespaces ∧
        (∀ p, (portUnit t p).nsMap = (fourGet s.mem.settings.ports p).nsMap ∧
          (portUnit t p).autoAdmit = (fourGet s.mem.settings.ports p).autoAdmit) ∧
        t.mem.settings = s.mem.settings ∧ t.mif.settingsDefaulted = false) ∧
      (s.mem.settingsCheck ≠ settingsCheckOf s.mem.settings →
        t.params = Params.defaults ∧ t.nst = [] ∧
        (∀ p, (portUnit t p).nsMap = 0#64 ∧ (portUnit t p).autoAdmit = false) ∧
        t.mem.settings.params = Params.defaults ∧ t.mem.settings.namespaces = [] ∧
        t.mem.settingsCheck = settingsCheckOf t.mem.settings ∧ t.mif.settingsDefaulted = true) ∧
      t.swp.cursor = 0 ∧ t.swp.allowance = 0 ∧
      t.stu.timer = (if t.params.statsMode = .interval then some 0 else none) ∧
      t.ixc.occupancyHigh = decide (t.params.occupancyPct * capacity s ≤ t.ixc.occupancy * 100) ∧
      t.ctu.containersLow = decide (t.ctu.freeList.length < t.params.containersLowCount) ∧
      (∀ p, (portUnit t p).state ≠ .down → hasEvent t p .indexReady) ∧ t.clu = s.clu ∧ t.bte = s.bte

/-- Recovery's walk of the slots: in the counted modules a PENDING slot is FREE, a slot whose state field holds none of the
six codes is SUSPECT with its other fields kept, every other slot is kept; occupancy is the number of non-FREE slots left,
and SUSPECT_FOUND is raised when a slot was so written (R11, R175). -/
def Obligations.RecoveryWalksTheSlots : Prop :=
  ∀ (s : State), s.powered = true → s.mif.indexState = .recovering → s.mif.restartTaken = false → s.mem.wf = true →
    ∃ t, exec .recovery s = .next t ∧
      (∀ k, (slotNumber s.mif.descriptors k).isSome = true →
        tableGet SlotImage.free t.mem.slots k =
          (match imageState (tableGet SlotImage.free s.mem.slots k) with
           | some .pending => SlotImage.free
           | none => { tableGet SlotImage.free s.mem.slots k with state := entryCode .suspect }
           | some _ => tableGet SlotImage.free s.mem.slots k)) ∧
      (∀ k, slotNumber s.mif.descriptors k = none →
        tableGet SlotImage.free t.mem.slots k = tableGet SlotImage.free s.mem.slots k) ∧
      t.ixc.occupancy =
        t.mem.slots.countP (fun x =>
          (slotNumber s.mif.descriptors x.1).isSome && decide (imageState x.2 ≠ some .free)) ∧
      ((∃ x ∈ s.mem.slots, (slotNumber s.mif.descriptors x.1).isSome = true ∧ imageState x.2 = none) →
        ∀ p, (portUnit t p).state ≠ .down → hasEvent t p .suspectFound)

/-- Recovery's containers: counts from the counted entries, OPEN and newly counted containers CLOSED, fills raised to the
highest end, the free list of the FREE containers in ascending number, open counts 0; a failing area check takes every
record as FREE first (R71, R72, R89, R175, R179). The sums have no bound, which is the model's choice (log 36). -/
def Obligations.RecoveryRebuildsContainers : Prop :=
  ∀ (s : State), s.powered = true → s.mif.indexState = .recovering → s.mif.restartTaken = false → s.mem.wf = true →
    ∃ t, exec .recovery s = .next t ∧
      (∀ c, c < 65536 →
        let stored : ContainerRec :=
          if s.mem.containersCheck = areaCheck s.mem.containers then containerGet s c else ContainerRec.zero
        let here := (countedLocations s.mif.descriptors t.mem.slots).filter (fun l => decide (l.container.toNat = c))
        let r := containerGet t c
        r.owner = .p0 ∧ r.live = here.length ∧ r.bytes = (here.map (fun l => l.length.toNat)).sum ∧
          (stored.state = .free → here = [] → r.state = .free ∧ r.fill = 0) ∧
          (stored.state ≠ .free ∨ here ≠ [] →
            r.state = .closed ∧
            r.fill = max stored.fill
              (min 67108864 ((here.map (fun l => l.offset.toNat + l.length.toNat)).foldl max 0)))) ∧
      t.mem.containersCheck = areaCheck t.mem.containers ∧
      t.ctu.freeList =
        (List.range 65536).filter (fun c => decide ((containerGet t c).state = .free)) ∧
      (∀ p, fourGet t.ctu.openCount p = 0) ∧
      t.mif.containerRebuilt = decide (s.mem.containersCheck ≠ areaCheck s.mem.containers)

/-! ## FORMAT -/

/-- A FORMAT taken in UNFORMATTED, or in READY with no operation in progress and nothing in use, enters FORMATTING: format
mark cleared, interval timer stopped, both level conditions false, claim-unit and batch operations dropped, and every WAITING
request answered NOT_READY. In READY it is answered WRONG_STATE while something is in use, and it waits while an operation is
in progress (R12, R19, R21, R86, R163, R174, R176). -/
def Obligations.FormatIsTestedAndTaken : Prop :=
  (∀ (s : State) (p : Port) (e : QEntry), CanTake s p e → e.kind = .format → PortsOk s →
     (s.mif.indexState = .unformatted ∨
       (s.mif.indexState = .ready ∧ s.ixc.inProgress = none ∧ NothingInUse s)) →
     ∃ t, exec (.format p (.take e.tag)) s = .next t ∧ t.mif.indexState = .formatting ∧
       t.mif.formatJob = some
         { port := p, tag := e.tag, mark := e.mark,
           startCount :=
             if s.mif.indexState = .ready then s.mif.startCount + 1#16
             else if headerValid s.mem.header = true then s.mem.header.startCount + 1#16 else 0#16 } ∧
       t.mem.header.mark = 0#32 ∧ t.mem.slots = s.mem.slots ∧ t.mem.settings = s.mem.settings ∧
       t.mem.containers = s.mem.containers ∧ t.stu.timer = none ∧ t.ixc.occupancyHigh = false ∧
       t.ctu.containersLow = false ∧ t.clu.updates = [] ∧ t.bte.held = none ∧
       t.ixc.lastServed = s.ixc.lastServed ∧
       (∀ q x, x ∈ (portUnit s q).queue → x.phase = .waiting → x.mark = (portUnit s q).session →
         { kind := kindCode x.kind, tag := x.tag, answer := .notReady .formatting } ∈ (portUnit t q).responses ∧
           ∀ y ∈ (portUnit t q).queue, y.tag ≠ x.tag) ∧
       queued t p e.tag = some { e with taken := true }) ∧
  ((∀ (s : State) (p : Port) (e : QEntry), CanTake s p e → e.kind = .format → s.mif.indexState = .ready →
     (s.ixc.inProgress = none → ¬ NothingInUse s →
       exec (.format p (.take e.tag)) s = .next (answered p e .wrongState s)) ∧
     (s.ixc.inProgress ≠ none →
       exec (.format p (.take e.tag)) s = .next { s with mif := { s.mif with formatWaits := some (p, e.tag) } })) ∧
   (∀ (s : State) (p : Port) (e : QEntry), s.powered = true → s.mif.formatWaits = some (p, e.tag) → IsQueued s p e →
     s.mif.restartTaken = false → s.mif.indexState = .ready →
     (s.ixc.inProgress ≠ none → exec .formatAfterOperation s = .next s) ∧
     (s.ixc.inProgress = none → ¬ NothingInUse s →
       exec .formatAfterOperation s =
         .next (answered p e .wrongState { s with mif := { s.mif with formatWaits := none } })) ∧
     (s.ixc.inProgress = none → NothingInUse s →
       ∃ t, exec .formatAfterOperation s = .next t ∧ t.mif.indexState = .formatting ∧ t.mif.formatWaits = none ∧
         t.mem.header.mark = 0#32 ∧
         t.mif.formatJob = some
           { port := p, tag := e.tag, mark := e.mark, startCount := s.mif.startCount + 1#16 })))

/-- The FORMAT walk: every slot of the counted modules FREE, every container FREE, settings and clock at their defaults,
header written with a valid check, index READY, and FORMAT answered DONE; what R176 leaves unchanged is unchanged, the
event sets but for what READY raises: INDEX_READY, and in FORMATTING, where both level conditions are false (R12, R86),
nothing else; a DOWN port's set stays as it was (R147, R166, R167) (log 45: the flags of the last recovery are cleared at
this end). A walk waits for the owners to take the parameter changes handed to them before it, which is the model's choice (log
39) (R11, R90, R92, R95, R128, R139, R160, R163, R173, R174, R176, R179). -/
def Obligations.FormatWalkFormatsTheIndex : Prop :=
  (∀ s : State, s.mif.changes ≠ [] → exec .formatWalk s = .next s) ∧
  ∀ (s : State) (j : FormatJob), s.powered = true → s.mif.formatJob = some j → s.mif.indexState = .formatting →
    s.mif.restartTaken = false → s.mif.changes = [] → s.mem.wf = true →
    ∃ t, exec .formatWalk s = .next t ∧ t.mif.indexState = .ready ∧ t.mif.formatJob = none ∧
      (∀ k, (slotNumber s.mif.descriptors k).isSome = true → tableGet SlotImage.free t.mem.slots k = SlotImage.free) ∧
      (∀ k, slotNumber s.mif.descriptors k = none →
        tableGet SlotImage.free t.mem.slots k = tableGet SlotImage.free s.mem.slots k) ∧
      t.ixc.occupancy = 0 ∧ t.mem.containers = [] ∧ t.mem.containersCheck = areaCheck [] ∧
      t.ctu.freeList = List.range 65536 ∧ (∀ p, fourGet t.ctu.openCount p = 0) ∧ t.ctu.containersLow = false ∧
      t.params = Params.defaults ∧ t.nst = [] ∧
      (∀ p, (portUnit t p).nsMap = 0#64 ∧ (portUnit t p).autoAdmit = false) ∧
      t.mem.settings.params = Params.defaults ∧ t.mem.settings.namespaces = [] ∧
      t.mem.settingsCheck = settingsCheckOf t.mem.settings ∧
      headerValid t.mem.header = true ∧ t.mem.header.capacity = BitVec.ofNat 32 (capacity s) ∧
      t.mem.header.startCount = j.startCount ∧ t.mem.header.clock = 0#40 ∧ t.mif.startCount = j.startCount ∧
      t.tmb.clock = 0#40 ∧ t.tmb.clockLoaded = true ∧ t.mif.settingsDefaulted = false ∧
      t.mif.containerRebuilt = false ∧ t.swp = { cursor := 0, passCount := 0#32, allowance := 0 } ∧
      t.stu.timer = some 0 ∧
      (∀ p, (portUnit t p).state = (portUnit s p).state ∧ (portUnit t p).mask = (portUnit s p).mask ∧
        (portUnit t p).occEdge = (portUnit s p).occEdge ∧ (portUnit t p).lowEdge = (portUnit s p).lowEdge ∧
        (portUnit t p).suppression = (portUnit s p).suppression ∧ (portUnit t p).session = (portUnit s p).session) ∧
      (∀ p,
        let u := portUnit s p
        let high := decide (capacity s = 0)
        (u.state = .down → (portUnit t p).events = u.events) ∧
        (u.state ≠ .down →
          (portUnit t p).events = u.events ||| BitVec.twoPow 13 10 |||
            (if high ≠ s.ixc.occupancyHigh ∧ (high = true ∨ u.occEdge = .both) then BitVec.twoPow 13 5 else 0#13) |||
            (if s.ctu.containersLow = true ∧ u.lowEdge = .both then BitVec.twoPow 13 6 else 0#13)) ∧
        (u.state ≠ .down → capacity s ≠ 0 → s.ixc.occupancyHigh = false → s.ctu.containersLow = false →
          (portUnit t p).events = u.events ||| BitVec.twoPow 13 10)) ∧
      t.stu.live = s.stu.live ∧ t.stu.snap = s.stu.snap ∧ t.stu.sequence = s.stu.sequence ∧ t.clu = s.clu ∧
      t.bte = s.bte ∧ t.ixc.lastServed = s.ixc.lastServed ∧
      (∀ e, queued s j.port j.tag = some e → j.mark = (portUnit s j.port).session →
        (portUnit t j.port).responses =
          (portUnit s j.port).responses ++ [{ kind := kindCode e.kind, tag := j.tag, answer := .done .none }] ∧
        queued t j.port j.tag = none)

/-! ## Containers -/

/-- OPEN_CONTAINER tests the open limit and then the free list, and opens the container at the head of the free list for
the port with fill 0 (R73). CLOSE_CONTAINER acts by state and owner, and keeps fill and counts (R74). RECLAIM frees a CLOSED
container with live count 0 to the tail of the free list (R75). -/
def Obligations.ContainerRequestsActByState : Prop :=
  (∀ (s : State) (p : Port) (e : QEntry), CanTake s p e → e.kind = .openContainer →
     (fourGet s.ctu.openCount p = 4 →
       exec (.openContainer p (.request (.take e.tag))) s = .next (answered p e .openLimit s)) ∧
     (fourGet s.ctu.openCount p ≠ 4 → s.ctu.freeList = [] →
       exec (.openContainer p (.request (.take e.tag))) s = .next (answered p e .noContainer s)) ∧
     (∀ c rest, fourGet s.ctu.openCount p ≠ 4 → s.ctu.freeList = c :: rest →
       exec (.openContainer p (.request (.take e.tag))) s =
         .next (answered p e (.done (.opened c)) (evalContainersLow
           { containerPut c { containerGet s c with state := .opened, owner := p, fill := 0 } s with
             ctu := { s.ctu with
               freeList := rest, openCount := fourSet s.ctu.openCount p (fourGet s.ctu.openCount p + 1) } })))) ∧
  (∀ (s : State) (p : Port) (e : QEntry) (c : Nat), CanTake s p e → e.kind = .closeContainer →
     e.request = .closeContainer c →
     ((containerGet s c).state ≠ .opened →
       exec (.closeContainer p (.request (.take e.tag))) s = .next (answered p e .wrongState s)) ∧
     ((containerGet s c).state = .opened → (containerGet s c).owner ≠ p →
       exec (.closeContainer p (.request (.take e.tag))) s = .next (answered p e .notOwner s)) ∧
     ((containerGet s c).state = .opened → (containerGet s c).owner = p →
       exec (.closeContainer p (.request (.take e.tag))) s =
         .next (answered p e (.done .none)
           { containerPut c { containerGet s c with state := .closed, owner := .p0 } s with
             ctu := { s.ctu with
               openCount := fourSet s.ctu.openCount p (fourGet s.ctu.openCount p - 1) } }))) ∧
  (∀ (s : State) (p : Port) (e : QEntry) (c : Nat), CanTake s p e → e.kind = .reclaim → e.request = .reclaim c →
     ((containerGet s c).state ≠ .closed →
       exec (.reclaim p (.request (.take e.tag))) s = .next (answered p e .wrongState s)) ∧
     ((containerGet s c).state = .closed → (containerGet s c).live ≠ 0 →
       exec (.reclaim p (.request (.take e.tag))) s = .next (answered p e .notEmpty s)) ∧
     ((containerGet s c).state = .closed → (containerGet s c).live = 0 →
       exec (.reclaim p (.request (.take e.tag))) s =
         .next (answered p e (.done .none) (evalContainersLow
           { containerPut c { containerGet s c with state := .free, fill := 0, bytes := 0 } s with
             ctu := { s.ctu with freeList := s.ctu.freeList ++ [c] } }))))

/-- FIND_EMPTY answers with the first container from start upward that is CLOSED with live count 0, or none, and changes no
record (R76). -/
def Obligations.FindEmptyReportsFirst : Prop :=
  ∀ (s : State) (p : Port) (e : QEntry) (start : Nat), CanTake s p e → e.kind = .findEmpty →
    e.request = .findEmpty start → s.mem.wf = true →
    ∃ r, exec (.findEmpty p (.request (.take e.tag))) s = .next (answered p e (.done (.found r)) s) ∧
      (∀ c, r = some c →
        start ≤ c ∧ (containerGet s c).state = .closed ∧ (containerGet s c).live = 0 ∧
          ∀ d, start ≤ d → d < c → ¬ ((containerGet s d).state = .closed ∧ (containerGet s d).live = 0)) ∧
      (r = none →
        ∀ d, start ≤ d → ¬ ((containerGet s d).state = .closed ∧ (containerGet s d).live = 0))

/-- A slot or container record written reads as written, every other one as before, and nothing else changes but the area
check, which is that of the whole table (R3, R20, R69, R173). That numbers at or above the capacity have places of their
own, so that a write of one changes no other, is the model's choice (log 28). -/
def Obligations.WritesKeepTheOthers : Prop :=
  (∀ (s : State) (n m : Nat) (im : SlotImage),
     slotGet (slotPut n im s) n = im ∧ (m ≠ n → slotGet (slotPut n im s) m = slotGet s m) ∧
     slotPut n im s = { s with mem := { s.mem with slots := (slotPut n im s).mem.slots } }) ∧
  (∀ (s : State) (c : Nat) (r : ContainerRec),
     containerGet (containerPut c r s) c = r ∧
     (∀ d, d ≠ c → containerGet (containerPut c r s) d = containerGet s d) ∧
     (containerPut c r s).mem.containersCheck = areaCheck (containerPut c r s).mem.containers ∧
     containerPut c r s =
       { s with mem := { s.mem with
           containers := (containerPut c r s).mem.containers,
           containersCheck := (containerPut c r s).mem.containersCheck } })

/-! ## Counters, snapshots and notices -/

/-- Each of the thirteen kinds has its code (R166, R184). A kind raised enters the event set of each port named that is not
DOWN, and the attention line follows set and mask (R147, R166, R170), in the silence after a RESTART too, which is the
model's choice (log 40). Each level condition takes the value its rule gives, and a change is signalled to every port,
where a rise, or any change under edge mode BOTH, raises its kind (R12, R86, R167). -/
def Obligations.NoticesAndLevelConditions : Prop :=
  (∀ k : EventKind, eventCode k =
     match k with
     | .peerLost => 0 | .peerAdmitted => 1 | .claimExpired => 2 | .suspectFound => 3 | .underflow => 4
     | .occupancyHigh => 5 | .containersLow => 6 | .snapshotReady => 7 | .sweepDone => 8 | .frameError => 9
     | .indexReady => 10 | .counterSaturated => 11 | .portFenced => 12) ∧
  (∀ (s : State) (k : EventKind) (p : Port),
     let raised (u : PortUnit) : PortUnit :=
       if u.state = .down then u
       else { u with
         events := u.events ||| BitVec.twoPow 13 (eventCode k),
         attn := decide ((u.events ||| BitVec.twoPow 13 (eventCode k)) &&& u.mask ≠ 0#13) }
     raiseTo p k s = { s with ports := fourSet s.ports p (raised (portUnit s p)) } ∧
     raiseAll k s = { s with ports := fourOf (fun q => raised (portUnit s q)) } ∧
     raiseOthers p k s =
       { s with ports := fourOf (fun q => if q = p then portUnit s q else raised (portUnit s q)) }) ∧
  (∀ (s : State),
     let ready := decide (s.mif.indexState = .ready)
     let high := ready && decide (s.params.occupancyPct * capacityOf s.mif.descriptors ≤ s.ixc.occupancy * 100)
     let low := ready && decide (s.ctu.freeList.length < s.params.containersLowCount)
     (high = s.ixc.occupancyHigh → evalOccupancy s = s) ∧
     (high ≠ s.ixc.occupancyHigh →
       (evalOccupancy s).ixc = { s.ixc with occupancyHigh := high } ∧
       ∀ p, (portUnit (evalOccupancy s) p).occSignalled = high ∧
         (portUnit (evalOccupancy s) p).events =
           if (portUnit s p).state ≠ .down ∧ (high = true ∨ (portUnit s p).occEdge = .both)
           then (portUnit s p).events ||| BitVec.twoPow 13 5 else (portUnit s p).events) ∧
     (low = s.ctu.containersLow → evalContainersLow s = s) ∧
     (low ≠ s.ctu.containersLow →
       (evalContainersLow s).ctu = { s.ctu with containersLow := low } ∧
       ∀ p, (portUnit (evalContainersLow s) p).lowSignalled = low ∧
         (portUnit (evalContainersLow s) p).events =
           if (portUnit s p).state ≠ .down ∧ (low = true ∨ (portUnit s p).lowEdge = .both)
           then (portUnit s p).events ||| BitVec.twoPow 13 6 else (portUnit s p).events))

/-- EVENTS answers with the event set and the signalled values and empties the set; SET_EVENT_MASK writes the mask and the
edge modes carried. Each re-evaluates the attention line (R168, R169, R170), whatever the transmitters do (log 40). -/
def Obligations.EventRequestsReadAndMask : Prop :=
  ∀ (s : State) (p : Port) (e : QEntry), CanTake s p e →
    (e.kind = .events →
      exec (.events p (.take e.tag)) s =
        .next (answered p e
          (.done (.eventSet (portUnit s p).events (portUnit s p).occSignalled (portUnit s p).lowSignalled))
          (updPort p (fun u => { u with events := 0#13, attn := false }) s))) ∧
    (∀ mask occ low, e.kind = .setEventMask → e.request = .setEventMask mask occ low →
      exec (.setEventMask p (.take e.tag)) s =
        .next (answered p e
          (.done (.eventMask mask (occ.getD (portUnit s p).occEdge) (low.getD (portUnit s p).lowEdge)))
          (updPort p (fun u =>
            { u with
              mask := mask, occEdge := occ.getD u.occEdge, lowEdge := low.getD u.lowEdge,
              attn := decide (u.events &&& mask ≠ 0#13) }) s)))

/-- An amount is added with saturation at 2^48 - 1, and the first saturated flag set in a round raises COUNTER_SATURATED to
all ports and sets the round notice flag; a snapshot clears it, and so does a start (R160, R161). The places of the ten
counters of a namespace and of the four of a port are in the order of the rows of R160, which is the model's choice (log
41), as it is that a namespace number above 63 names no counter (log 24). -/
def Obligations.CountersSaturateWithOneNotice : Prop :=
  (∀ (s : State) (k n : Nat),
    let c := tableGet Counter.zero s.stu.live k
    let t := countOne k n s
    let noticed := decide (2 ^ 48 - 1 ≤ c.value + n) && !c.saturated && !s.stu.notice
    (c.value + n < 2 ^ 48 - 1 →
      tableGet Counter.zero t.stu.live k = { value := c.value + n, saturated := c.saturated }) ∧
    (2 ^ 48 - 1 ≤ c.value + n →
      tableGet Counter.zero t.stu.live k = { value := 2 ^ 48 - 1, saturated := true }) ∧
    (∀ m, m ≠ k → tableGet Counter.zero t.stu.live m = tableGet Counter.zero s.stu.live m) ∧
    t.stu.notice = (s.stu.notice || noticed) ∧
    t = { (if noticed = true then raiseAll .counterSaturated s else s) with
          stu := { s.stu with live := t.stu.live, notice := t.stu.notice } }) ∧
  (∀ (s : State) (n : Nat),
    let row : NsCounter → Nat := fun c =>
      match c with
      | .lookups => 0 | .hits => 1 | .hitBytes => 2 | .claims => 3 | .commits => 4 | .commitBytes => 5
      | .releases => 6 | .zeroed => 7 | .purges => 8 | .purgeBytes => 9
    let portRow : PortCounter → Nat := fun c =>
      match c with
      | .framesIn => 0 | .framesBad => 1 | .queueFulls => 2 | .expiredClaims => 3
    (∀ ns c, ns ≤ 63 → countNs ns c n s = countOne (ns * 10 + row c) n s) ∧
    (∀ ns c, 63 < ns → countNs ns c n s = s) ∧
    ∀ p c, countPort p c n s = countOne (640 + portNumber p * 4 + portRow c) n s) ∧
  (∀ s : State, (takeSnapshot s).stu.notice = false) ∧
  (∀ q out m i st, (State.afterReset q out m i st).stu.notice = false)

/-- SNAPSHOT takes a snapshot in mode MANUAL and carries the new sequence number, and is answered WRONG_STATE in mode
INTERVAL with nothing changed. At the end of the interval a snapshot is taken and the timer starts again from 0 (R162 to
R164). INTERVAL_END may be given after its due time (log 12) and changes nothing before it (log 3): both are the model's
choice. -/
def Obligations.SnapshotsAreTaken : Prop :=
  (∀ (s : State) (p : Port) (e : QEntry), CanTake s p e → e.kind = .snapshot →
     (s.params.statsMode = .manual →
       exec (.snapshot p (.take e.tag)) s =
         .next (answered p e (.done (.sequence (s.stu.sequence + 1#32)))
           (raiseAll .snapshotReady
             { s with stu := { s.stu with
                 live := [], snap := s.stu.live, notice := false, sequence := s.stu.sequence + 1#32 } }))) ∧
     (s.params.statsMode = .interval →
       exec (.snapshot p (.take e.tag)) s = .next (answered p e .wrongState s))) ∧
  (∀ (s : State), s.powered = true →
     (∀ t, s.stu.timer = some t → s.mif.indexState = .ready → s.params.statsMode = .interval →
       s.params.statsIntervalS * 1000 ≤ t →
       exec .intervalEnd s =
         .next (raiseAll .snapshotReady
           { s with stu :=
               { live := [], snap := s.stu.live, notice := false, sequence := s.stu.sequence + 1#32,
                 timer := some 0 } })) ∧
     (∀ t, s.stu.timer = some t → t < s.params.statsIntervalS * 1000 → exec .intervalEnd s = .next s) ∧
     (s.stu.timer = none → exec .intervalEnd s = .next s))

/-! ## Namespaces and ports -/

/-- SET_NAMESPACE writes the parts carried to the table and to the settings area with its check, and answers DONE with the
record after the change; with both parts UNCHANGED nothing changes (R139, R140, R173). -/
def Obligations.SetNamespaceWritesParts : Prop :=
  ∀ (s : State) (p : Port) (e : QEntry) (n : Nat) (st : Option NsState) (hold : Option Bool),
    CanTake s p e → e.kind = .setNamespace → e.request = .setNamespace n st hold →
    let old := tableGet NsRec.zero s.nst n
    let new : NsRec := { state := st.getD old.state, hold := hold.getD old.hold }
    (st = none → hold = none →
      exec (.setNamespace p (.take e.tag)) s = .next (answered p e (.done (.namespaceRec old)) s)) ∧
    (st ≠ none ∨ hold ≠ none →
      ∃ nst v, exec (.setNamespace p (.take e.tag)) s =
          .next (answered p e (.done (.namespaceRec new))
            { s with nst := nst, mem := { s.mem with settings := v, settingsCheck := settingsCheckOf v } }) ∧
        tableGet NsRec.zero nst n = new ∧ (∀ m, m ≠ n → tableGet NsRec.zero nst m = tableGet NsRec.zero s.nst m) ∧
        tableGet NsRec.zero v.namespaces n = new ∧
        (∀ m, m ≠ n → tableGet NsRec.zero v.namespaces m = tableGet NsRec.zero s.mem.settings.namespaces m) ∧
        v.params = s.mem.settings.params ∧ v.ports = s.mem.settings.ports)

/-- SET_PORT writes the parts carried at each target port and in the settings area, a flag set may admit the port, and DONE
carries the target's map and flag, port 0's for ALL (R141, R149, R150, R173). -/
def Obligations.SetPortWritesParts : Prop :=
  ∀ (s : State) (p : Port) (e : QEntry) (target : Option Port) (map : Option (BitVec 64)) (auto : Option Bool),
    CanTake s p e → e.kind = .setPort → e.request = .setPort target map auto →
    (map = none → auto = none →
      exec (.setPort p (.take e.tag)) s =
        .next (answered p e (.done (.portSetting
          { nsMap := (portUnit s (target.getD .p0)).nsMap,
            autoAdmit := (portUnit s (target.getD .p0)).autoAdmit })) s)) ∧
    (map ≠ none ∨ auto ≠ none →
      ∃ t, exec (.setPort p (.take e.tag)) s =
          .next (answered p e (.done (.portSetting
            { nsMap := map.getD (portUnit s (target.getD .p0)).nsMap,
              autoAdmit := auto.getD (portUnit s (target.getD .p0)).autoAdmit })) t) ∧
        (∀ q, target = none ∨ target = some q →
          (portUnit t q).nsMap = map.getD (portUnit s q).nsMap ∧
          (portUnit t q).autoAdmit = auto.getD (portUnit s q).autoAdmit ∧
          fourGet t.mem.settings.ports q =
            { nsMap := (portUnit t q).nsMap, autoAdmit := (portUnit t q).autoAdmit } ∧
          (portUnit t q).state =
            if auto = some true ∧ (portUnit s q).state = .fenced ∧ (portUnit s q).persistenceMet = true ∧
                teardownOutstanding (portUnit s q) = false ∧ (portUnit s q).suppression = false
            then .online else (portUnit s q).state) ∧
        (∀ q, target ≠ none → target ≠ some q →
          (portUnit t q).nsMap = (portUnit s q).nsMap ∧ (portUnit t q).autoAdmit = (portUnit s q).autoAdmit ∧
          fourGet t.mem.settings.ports q = fourGet s.mem.settings.ports q ∧
          (portUnit t q).state = (portUnit s q).state) ∧
        t.mem.settingsCheck = settingsCheckOf t.mem.settings ∧
        t.mem.settings.params = s.mem.settings.params ∧ t.mem.settings.namespaces = s.mem.settings.namespaces ∧
        t.mem.slots = s.mem.slots ∧ t.mem.containers = s.mem.containers ∧ t.mem.header = s.mem.header ∧
        (∀ q, (portUnit t q).queue = (portUnit s q).queue ∧ (portUnit t q).responses = (portUnit s q).responses) ∧
        t.ixc = s.ixc ∧ t.clu = s.clu ∧ t.ctu = s.ctu ∧ t.bte = s.bte ∧ t.swp = s.swp ∧ t.tmb = s.tmb ∧ t.nst = s.nst ∧
        t.stu = s.stu ∧ t.mif = s.mif ∧ t.params = s.params)

/-- ADMIT of a FENCED port with no teardown outstanding makes it ONLINE, clears its suppression and tells the other ports;
of any other port it is answered WRONG_STATE. EVICT sets the target's suppression: an ONLINE target becomes FENCED with its
session number one up, its queue discarded and its teardown handed to the three blocks; the requester itself and a DOWN
target are refused (R150, R151, R155, R156). That a FORMAT of the target which still waits goes with its queue is the model's
reading (log 17). -/
def Obligations.AdmitAndEvictActByTarget : Prop :=
  (∀ (s : State) (p : Port) (e : QEntry) (q : Port), CanTake s p e → e.kind = .admitPort → e.request = .admitPort q →
     ((portUnit s q).state = .fenced → teardownOutstanding (portUnit s q) = false →
       exec (.admitPort p (.take e.tag)) s =
         .next (answered p e (.done .none) (raiseOthers q .peerAdmitted
           (updPort q (fun u => { u with state := .online, suppression := false }) s)))) ∧
     ((portUnit s q).state ≠ .fenced ∨ teardownOutstanding (portUnit s q) = true →
       exec (.admitPort p (.take e.tag)) s = .next (answered p e .wrongState s))) ∧
  (∀ (s : State) (p : Port) (e : QEntry) (q : Port), CanTake s p e → e.kind = .evict → e.request = .evict q →
     (q = p ∨ (portUnit s q).state = .down →
       exec (.evict p (.take e.tag)) s = .next (answered p e .wrongState s)) ∧
     (q ≠ p → (portUnit s q).state = .fenced →
       exec (.evict p (.take e.tag)) s =
         .next (answered p e (.done .none) (updPort q (fun u => { u with suppression := true }) s))) ∧
     (q ≠ p → (portUnit s q).state = .online →
       exec (.evict p (.take e.tag)) s =
         .next (answered p e (.done .none) (raiseTo q .portFenced (raiseOthers q .peerLost
           (updPort q (fun u =>
             { u with
               state := .fenced, session := u.session + 1#16, queue := [], suppression := true,
               teardownCtu := true, teardownBte := true, teardownClu := true })
             { s with mif := { s.mif with
                 formatWaits :=
                   if s.mif.formatWaits.map (fun w => w.1) = some q then none else s.mif.formatWaits } }))))))

/-- A port is admitted automatically when the five conditions hold at once, and the other ports are told. The first symbol
takes a DOWN port to FENCED with its counts at 0; the hundredth steady millisecond sets persistence met, which may admit the
port, in the event that judges it (R147 to R150). PERSISTENCE_MET is that event taken by the port unit ahead of the tick's
command, which is the model's choice (log 11); the count runs in ONLINE as in FENCED (R150, log 13). -/
def Obligations.AdmissionFollowsTheLink : Prop :=
  (∀ (s : State) (p : Port),
     let u := portUnit s p
     (u.state = .fenced → u.persistenceMet = true → teardownOutstanding u = false → u.suppression = false →
       (u.privilege = 0#2 ∨ u.autoAdmit = true) →
       evalAdmission p s = raiseOthers p .peerAdmitted (updPort p (fun u => { u with state := .online }) s)) ∧
     (u.state ≠ .fenced ∨ u.persistenceMet = false ∨ teardownOutstanding u = true ∨ u.suppression = true ∨
       (u.privilege ≠ 0#2 ∧ u.autoAdmit = false) → evalAdmission p s = s)) ∧
  (∀ (s : State) (p : Port), s.powered = true →
     ((portUnit s p).state = .down →
       exec (.firstSymbol p) s =
         .next (updPort p (fun u =>
           { u with state := .fenced, quiet := 0, persistence := 0, persistenceMet := false, symbolSeen := true }) s)) ∧
     ((portUnit s p).state ≠ .down → exec (.firstSymbol p) s = .next s) ∧
     ((portUnit s p).judged = false → (portUnit s p).state ≠ .down → (portUnit s p).persistence + 1 = 100 →
       exec (.persistenceMet p) s =
         .next (updPort p (fun u => { u with judged := true }) (evalAdmission p (updPort p (fun u =>
           { u with quiet := 0, persistence := 100, persistenceMet := true, symbolSeen := false }) s)))) ∧
     ((portUnit s p).judged = true ∨ (portUnit s p).state = .down ∨ (portUnit s p).persistence + 1 ≠ 100 →
       exec (.persistenceMet p) s = .next s))

/-! ## The link and the departure of ports -/

/-- A millisecond tick judges the millisecond just ended at each port that is not DOWN, takes a loss and the hundredth
steady millisecond in that event, and moves the time counts on (R47, R92, R96, R145, R146, R148, R163, R177). A port unit
that has judged it in an event of its own, LOSS or PERSISTENCE_MET, does not judge it again, and the ports are taken in
number order: both are the model's choice (log 11). The persistence count runs in ONLINE as in FENCED (R150; log 13). -/
def Obligations.MillisecondTickJudgesLinks : Prop :=
  ∀ (s : State) (y : Four Bool), s.powered = true →
    let judges (t : State) (p : Port) : State :=
      let u := portUnit t p
      let steady := updPort p (fun u =>
        { u with quiet := 0, persistence := min 100 (u.persistence + 1), symbolSeen := false }) t
      let quiet := updPort p (fun u =>
        { u with quiet := min 15 (u.quiet + 1), persistence := 0, persistenceMet := false, symbolSeen := false }) t
      if u.judged = true then updPort p (fun u => { u with judged := false }) t
      else if u.state = .down then t
      else if fourGet y p = true ∨ u.symbolSeen = true then
        (if u.persistence + 1 = 100 then evalAdmission p (updPort p (fun u => { u with persistenceMet := true }) steady)
         else steady)
      else if lossWindow s p ≤ u.quiet + 1 then takeLoss p quiet else quiet
    let t := judges (judges (judges (judges s .p0) .p1) .p2) .p3
    exec (.millisecondTick y) s =
      .next { s with
        ports := t.ports,
        swp := { s.swp with
          allowance :=
            if s.mif.indexState = .ready ∧ s.params.sweepMode ≠ .off
            then min (2 * s.params.sweepRate) (s.swp.allowance + s.params.sweepRate) else s.swp.allowance },
        tmb := { s.tmb with
          ms := s.tmb.ms + 1, secondMs := if s.tmb.clockLoaded = true then s.tmb.secondMs + 1 else s.tmb.secondMs },
        stu := { s.stu with timer := s.stu.timer.map (fun t => t + 1) },
        mif := { s.mif with
          formatWaits := t.mif.formatWaits,
          silenceMs := if s.mif.silenced = true then s.mif.silenceMs + 1 else s.mif.silenceMs } }

/-- Loss takes the port DOWN: session number one up, queue, response list and event set emptied, the response being sent
finished; from ONLINE the three blocks get its teardown and the other ports PEER_LOST, and a FORMAT of the port that waits is
given up (R143, R146, R148, R151; log 16, log 17). LOSS is the event of a quiet millisecond that gives loss, taken by the port
unit ahead of the tick's command, which is the model's choice (log 11). -/
def Obligations.LossTakesPortDown : Prop :=
  (∀ (s : State) (p : Port),
    let down (u : PortUnit) : PortUnit :=
      { u with
        state := .down, session := u.session + 1#16, queue := [], responses := [],
        finishing := if u.finishing.isSome = true ∨ s.mif.silenced = true then u.finishing else u.responses.head?,
        events := 0#13, attn := false, quiet := 0, persistence := 0, persistenceMet := false, symbolSeen := false }
    ((portUnit s p).state = .down → takeLoss p s = s) ∧
    ((portUnit s p).state = .fenced → takeLoss p s = updPort p down s) ∧
    ((portUnit s p).state = .online →
      takeLoss p s =
        raiseOthers p .peerLost
          (updPort p (fun u => { down u with teardownCtu := true, teardownBte := true, teardownClu := true })
            { s with mif := { s.mif with
                formatWaits :=
                  if s.mif.formatWaits.map (fun w => w.1) = some p then none else s.mif.formatWaits } }))) ∧
  (∀ (s : State) (p : Port), s.powered = true →
    let u := portUnit s p
    let gives := u.judged = false ∧ u.state ≠ .down ∧ u.symbolSeen = false ∧ lossWindow s p ≤ u.quiet + 1
    (gives →
      exec (.loss p) s =
        .next (updPort p (fun u => { u with judged := true }) (takeLoss p (updPort p (fun u =>
          { u with quiet := min 15 (u.quiet + 1), persistence := 0, persistenceMet := false, symbolSeen := false }) s)))) ∧
    (¬ gives → exec (.loss p) s = .next s))

/-- The container unit's part of a teardown closes the port's OPEN containers with fill and counts kept (R88); outside
READY it changes no container record, index memory being absent or not read (R171, R172) or a walk's, which is the model's
choice (log 42). The batch engine's makes the port's contexts WITHHELD with every field cleared and gives up its held
operation and withdrawals (R125). Each is reported, and waits while an operation in progress forbids it (R152); that only a
turn of the port's own unit is an operation of the port, so that a batch item of the port does not hold back the container
unit, is the model's reading (log 25). A withdrawal request that the claim unit has not taken is taken back with its
withdrawal, which is the model's choice (log 49). -/
def Obligations.TeardownPartsAreReported : Prop :=
  (∀ (s : State) (p : Port), s.powered = true → s.mem.wf = true →
     ((portUnit s p).teardownCtu = true → (∀ e, s.ixc.inProgress ≠ some (.port p e)) →
       ∃ m, exec (.ctuTeardown p) s =
           .next (evalAdmission p (updPort p (fun u => { u with teardownCtu := false })
             { s with mem := m, ctu := { s.ctu with openCount := fourSet s.ctu.openCount p 0 } })) ∧
         (s.mif.indexState ≠ .ready → m = s.mem) ∧
         (s.mif.indexState = .ready → ∀ c, tableGet ContainerRec.zero m.containers c =
           if (containerGet s c).state = .opened ∧ (containerGet s c).owner = p
           then { containerGet s c with state := .closed, owner := .p0 } else containerGet s c) ∧
         (m.containers ≠ s.mem.containers → m.containersCheck = areaCheck m.containers) ∧
         (m.containers = s.mem.containers → m = s.mem) ∧
         m.slots = s.mem.slots ∧ m.header = s.mem.header ∧ m.settings = s.mem.settings ∧
         m.settingsCheck = s.mem.settingsCheck) ∧
     ((portUnit s p).teardownCtu = false ∨ (∃ e, s.ixc.inProgress = some (.port p e)) →
       exec (.ctuTeardown p) s = .next s)) ∧
  (∀ (s : State) (p : Port), s.powered = true → tableWf Context.zero s.bte.contexts = true →
     let mine (n : Nat) : Bool :=
       (decide ((contextGet s n).phase = .running) || decide ((contextGet s n).phase = .awaiting) ||
         decide ((contextGet s n).phase = .finished)) && decide ((contextGet s n).port = p)
     ((portUnit s p).teardownBte = true → (∀ n, s.ixc.inProgress ≠ some (.item n)) →
       ∃ t, exec (.bteTeardown p) s =
           .next (evalAdmission p (updPort p (fun u => { u with teardownBte := false }) (presentItem
             { s with
               bte := { s.bte with
                 contexts := t,
                 held := match s.bte.held with
                   | some n => if mine n = true then none else some n
                   | none => none },
               clu := { s.clu with withdrawals := s.clu.withdrawals.filter (fun w => decide (w.2 ≠ p)) } }))) ∧
         ∀ n, tableGet Context.zero t n =
           if mine n = true then { Context.zero with phase := .withheld p } else contextGet s n) ∧
     ((portUnit s p).teardownBte = false ∨ (∃ n, s.ixc.inProgress = some (.item n)) →
       exec (.bteTeardown p) s = .next s))

/-! ## Buckets, verification and search -/

/-- The home bucket is bytes 0 to 3 modulo the bucket count, the alternate bucket bytes 4 to 7 likewise or the bucket after
the home bucket; the two differ, and no other byte takes part. The bucket count is the capacity divided by 8 (R2). -/
def Obligations.FingerprintHasTwoBuckets : Prop :=
  (∀ (bc : Nat) (h a : BitVec 32) (rest : BitVec 192),
    let fp : Fingerprint := BitVec.ofNat 256 (h.toNat * 2 ^ 224 + a.toNat * 2 ^ 192 + rest.toNat)
    homeBucket bc fp = h.toNat % bc ∧
    alternateBucket bc fp =
      (if a.toNat % bc = h.toNat % bc then (h.toNat % bc + 1) % bc else a.toNat % bc) ∧
    (2 ≤ bc → homeBucket bc fp ≠ alternateBucket bc fp)) ∧
  (∀ s : State, bucketCount s = capacityOf s.mif.descriptors / 8) ∧
  (∀ (fp : Fingerprint) (s : State), searchIndex fp s =
    searchFrom fp
      ((List.range 8).map (fun i => homeBucket (bucketCount s) fp * 8 + i) ++
        (List.range 8).map (fun i => alternateBucket (bucketCount s) fp * 8 + i)) s)

/-- What a slot must hold (R6, R13, R183), and what PENDING and counted entries are written with: absent fields zero and a
fresh check (R4, R6). The position query gives a record in use whose position is the slot, or none where there is none
(R15, R44). Verification leaves SUSPECT slots and slots that hold; a failing slot that a claim record in use names is
written again from it; any other is freed or marked SUSPECT by its location length, with occupancy kept true and
SUSPECT_FOUND raised (R11, R13 to R16); a count at 0 staying at 0 is the model's choice (log 34). A search verifies each
slot it reads, compares what verification left, and ends at the first that is not FREE and has the fingerprint (R7, R16,
R17); over slots that hold or are SUSPECT it changes nothing. -/
def Obligations.SlotsAreVerifiedAndSearched : Prop :=
  (∀ im : SlotImage,
     (im.state = 0x00#8 → (imageHolds im = true ↔ im = SlotImage.free)) ∧
     (1 ≤ im.state.toNat → im.state.toNat ≤ 5 →
       (imageHolds im = true ↔ im.check = crc16 ([im.state] ++ beBytes 32 im.fp.toNat ++ beBytes 2 im.refcount.toNat ++
         locationBytes im.loc ++ [im.ns] ++ beBytes 2 im.claim.toNat ++ beBytes 5 im.zeroSince.toNat))) ∧
     (5 < im.state.toNat → imageHolds im = false) ∧
     imageHolds (imageFresh im) =
       (decide (imageState im ≠ none) && (decide (im.state ≠ 0x00#8) || decide (imageFresh im = SlotImage.free)))) ∧
  (∀ (fp : Fingerprint) (c : Nat),
     imagePending fp c =
       imageFresh
         { state := 0x01#8, fp := fp, refcount := 0#16, loc := { container := 0#16, offset := 0#32, length := 0#32 },
           ns := 0#8, claim := BitVec.ofNat 16 c, zeroSince := 0#40, check := 0#16 } ∧
     imageHolds (imagePending fp c) = true) ∧
  (∀ (st : EntryState) (fp : Fingerprint) (n : BitVec 16) (l : Location) (ns : Byte) (z : BitVec 40),
     (st = .stored ∨ st = .zero ∨ st = .pinned) →
     imageCounted st fp n l ns z =
       imageFresh
         { state := match st with | .stored => 0x02#8 | .zero => 0x03#8 | _ => 0x04#8,
           fp := fp, refcount := n, loc := l, ns := ns, claim := 0#16, zeroSince := z, check := 0#16 } ∧
     imageHolds (imageCounted st fp n l ns z) = true) ∧
  (∀ (s : State) (n : Nat),
     (∀ x, positionQuery s n = some x → x ∈ s.clu.claims ∧ x.2.phase ≠ .free ∧ x.2.position = n) ∧
     (positionQuery s n = none → ∀ x ∈ s.clu.claims, x.2.phase ≠ .free → x.2.position ≠ n)) ∧
  (∀ (s : State) (n : Nat),
     let im := slotGet s n
     let fails := imageState im ≠ some .suspect ∧ imageHolds im = false
     (imageState im = some .suspect ∨ imageHolds im = true → verifySlot n s = s) ∧
     (∀ x, fails → positionQuery s n = some x → verifySlot n s = slotPut n (imagePending x.2.fp x.1) s) ∧
     (fails → positionQuery s n = none →
       (imageState im = some .pending → im.loc.length = 0#32 →
         verifySlot n s = raiseAll .suspectFound (setOccupancy (s.ixc.occupancy - 1) (slotPut n SlotImage.free s))) ∧
       (imageState im = some .free → im.loc.length = 0#32 →
         verifySlot n s = raiseAll .suspectFound (slotPut n SlotImage.free s)) ∧
       (imageState im = some .free → im.loc.length ≠ 0#32 →
         verifySlot n s =
           raiseAll .suspectFound (setOccupancy (s.ixc.occupancy + 1)
             (slotPut n { im with state := entryCode .suspect } s))) ∧
       (imageState im ≠ some .free → (imageState im ≠ some .pending ∨ im.loc.length ≠ 0#32) →
         verifySlot n s = raiseAll .suspectFound (slotPut n { im with state := entryCode .suspect } s)))) ∧
  (∀ (s : State) (fp : Fingerprint), searchFrom fp [] s = (s, none)) ∧
  (∀ (s : State) (fp : Fingerprint) (n : Nat) (rest : List Nat),
     let v := verifySlot n s
     (imageState (slotGet v n) ≠ some .free → (slotGet v n).fp = fp → searchFrom fp (n :: rest) s = (v, some n)) ∧
     (imageState (slotGet v n) = some .free ∨ (slotGet v n).fp ≠ fp →
       searchFrom fp (n :: rest) s = searchFrom fp rest v)) ∧
  (∀ (s : State) (fp : Fingerprint),
     let slots := searchSlots (bucketCount s) fp
     (∀ n ∈ slots, imageState (slotGet s n) = some .suspect ∨ imageHolds (slotGet s n) = true) →
     (searchIndex fp s).1 = s ∧
     (∀ n, (searchIndex fp s).2 = some n →
       imageState (slotGet s n) ≠ some .free ∧ (slotGet s n).fp = fp ∧
       ∃ before after, slots = before ++ n :: after ∧
         ∀ m ∈ before, imageState (slotGet s m) = some .free ∨ (slotGet s m).fp ≠ fp) ∧
     ((searchIndex fp s).2 = none →
       ∀ n ∈ slots, imageState (slotGet s n) = some .free ∨ (slotGet s n).fp ≠ fp))

/-! ## The arbiter -/

/-- The arbiter serves the requester that comes first, counting onward from the one after the last served, among those that
hold an operation; it serves none outside READY, during an operation, or while a FORMAT or RESTART waits (R18, R19, R21). A
grant makes the requester the last served and its turn the operation in progress, and the end of the turn clears it; a port
holds its earliest request that waits (R18 to R20). A turn that is not next changes nothing, and neither does the end of a
turn that is not in progress (log 3); that a grant is taken as a command of its own is log 2. -/
def Obligations.ArbiterServesInTurn : Prop :=
  (∀ (s : State),
     let number : Requester → Nat := fun r =>
       match r with
       | .pu .p0 => 0 | .pu .p1 => 1 | .pu .p2 => 2 | .pu .p3 => 3 | .bte => 4 | .clu => 5 | .swp => 6
     let distance (r : Requester) : Nat := (number r + 6 - number s.ixc.lastServed) % 7
     (∀ r, nextRequester s = some r →
       s.mif.indexState = .ready ∧ s.ixc.inProgress = none ∧ s.mif.formatWaits = none ∧ s.mif.restartTaken = false ∧
       holdsOperation s r = true ∧ ∀ q, holdsOperation s q = true → distance r ≤ distance q) ∧
     (nextRequester s = none → s.mif.indexState = .ready → s.ixc.inProgress = none → s.mif.formatWaits = none →
       s.mif.restartTaken = false → ∀ r, holdsOperation s r = false) ∧
     (∀ p, holdsOperation s (.pu p) = true ↔ ∃ e ∈ (portUnit s p).queue, e.phase = .waiting) ∧
     (holdsOperation s .bte = true ↔ s.bte.held ≠ none) ∧ (holdsOperation s .clu = true ↔ s.clu.updates ≠ []) ∧
     (holdsOperation s .swp = true ↔
       1 ≤ s.swp.allowance ∧ s.params.sweepMode ≠ .off ∧ s.mif.indexState = .ready)) ∧
  (∀ (s : State) (r : Requester) (t : Turn),
     grantTurn r t s = { s with ixc := { s.ixc with lastServed := r, inProgress := some t } } ∧
     endTurn s = { s with ixc := { s.ixc with inProgress := none } }) ∧
  (∀ (s : State) (p : Port),
     (∀ e, firstWaiting s p = some e ↔
       e.phase = .waiting ∧ ∃ before after, (portUnit s p).queue = before ++ e :: after ∧
         ∀ x ∈ before, x.phase ≠ .waiting) ∧
     (firstWaiting s p = none ↔ ∀ x ∈ (portUnit s p).queue, x.phase ≠ .waiting)) ∧
  (∀ (s : State) (p : Port) (k : Kind) (st : OpStep) (c : Instr), turnCommand k p st = some c →
     (st ≠ .finish → (nextRequester s ≠ some (.pu p) ∨ ∀ e, firstWaiting s p = some e → e.kind ≠ k) →
       exec c s = .next s) ∧
     (st = .finish → (∀ e, s.ixc.inProgress = some (.port p e) → e.kind ≠ k) → exec c s = .next s) ∧
     (∀ e, st = .grant → s.powered = true → nextRequester s = some (.pu p) → firstWaiting s p = some e → e.kind = k →
       exec c s = .next { s with ixc := { s.ixc with lastServed := .pu p, inProgress := some (.port p e) } })) ∧
  (∀ (s : State) (st : OpStep),
     let may (r : Requester) : Prop := st = .grant ∧ s.powered = true ∧ nextRequester s = some r
     let granted (r : Requester) (t : Turn) : Ixc :=
       { s.ixc with lastServed := r, inProgress := some t }
     (st ≠ .finish → nextRequester s ≠ some .bte → exec (.batchItemOperation st) s = .next s) ∧
     (st = .finish → (∀ n, s.ixc.inProgress ≠ some (.item n)) → exec (.batchItemOperation st) s = .next s) ∧
     (∀ n, may .bte → s.bte.held = some n →
       exec (.batchItemOperation st) s =
         .next { s with bte := { s.bte with held := none }, ixc := granted .bte (.item n) }) ∧
     (st ≠ .finish → (nextRequester s ≠ some .clu ∨ ∀ n, s.clu.updates.head? ≠ some (.entry n)) →
       exec (.commitEntryUpdate st) s = .next s) ∧
     (st = .finish → (∀ n, s.ixc.inProgress ≠ some (.entryUpdate n)) → exec (.commitEntryUpdate st) s = .next s) ∧
     (∀ n rest, may .clu → s.clu.updates = .entry n :: rest →
       exec (.commitEntryUpdate st) s =
         .next { s with clu := { s.clu with updates := rest }, ixc := granted .clu (.entryUpdate n) }) ∧
     (st ≠ .finish → (nextRequester s ≠ some .clu ∨ ∀ n, s.clu.updates.head? ≠ some (.freeing n)) →
       exec (.freeingUpdate st) s = .next s) ∧
     (st = .finish → (∀ n, s.ixc.inProgress ≠ some (.freeing n)) → exec (.freeingUpdate st) s = .next s) ∧
     (∀ n rest, may .clu → s.clu.updates = .freeing n :: rest →
       exec (.freeingUpdate st) s =
         .next { s with clu := { s.clu with updates := rest }, ixc := granted .clu (.freeing n) }) ∧
     (st ≠ .finish → nextRequester s ≠ some .swp → exec (.sweeperBucketOperation st) s = .next s) ∧
     (st = .finish → (∀ m g c, s.ixc.inProgress ≠ some (.sweep m g c)) →
       exec (.sweeperBucketOperation st) s = .next s) ∧
     (may .swp →
       exec (.sweeperBucketOperation st) s =
         .next { s with ixc := granted .swp (.sweep s.params.sweepMode s.params.graceS s.tmb.clock) }))

/-! ## Lookups and references -/

/-- A LOOKUP that matches a STORED, ZERO or PINNED entry: one reference added with saturation, a ZERO entry resurrected with
one, a PINNED one left; LOOKUPS, HITS and HIT_BYTES counted, and DUPLICATE answered with the location (R24 to R27, R37). -/
def Obligations.LookupAddsReference : Prop :=
  ∀ (s : State) (p : Port) (e : QEntry) (fp : Fingerprint) (wait : Bool), HasTurn s p e → e.kind = .lookup →
    e.request = .lookup fp wait → fp ≠ 0#256 →
    ∀ s1 n, searchIndex fp (turnBegun p e s) = (s1, some n) →
    let im := slotGet s1 n
    let counted (t : State) : State :=
      countNs e.ns .hitBytes im.loc.length.toNat (countNs e.ns .hits 1 (countNs e.ns .lookups 1 t))
    (imageState im = some .stored →
      exec (.lookupOperation p .whole) s =
        .next (answered p e (.index (.duplicate im.loc (decide (65534 ≤ im.refcount.toNat)) false))
          (endTurn (counted (slotPut n
            (if 65534 ≤ im.refcount.toNat then imageCounted .pinned im.fp 0xFFFF#16 im.loc im.ns 0#40
              else imageCounted .stored im.fp (im.refcount + 1#16) im.loc im.ns 0#40) s1))))) ∧
    (imageState im = some .zero →
      exec (.lookupOperation p .whole) s =
        .next (answered p e (.index (.duplicate im.loc false true))
          (endTurn (counted (slotPut n (imageCounted .stored im.fp 1#16 im.loc im.ns 0#40) s1))))) ∧
    (imageState im = some .pinned →
      exec (.lookupOperation p .whole) s =
        .next (answered p e (.index (.duplicate im.loc true false)) (endTurn (counted s1)))) ∧
    (imageState im = some .suspect →
      exec (.lookupOperation p .whole) s = .next (answered p e (.index .suspect) (endTurn s1)))

/-- A LOOKUP that matches a PENDING entry: IN_PROGRESS with the claim number without WAIT; with WAIT it parks at the tail of
the claim's waiter list and LOOKUPS is counted, or RETRY with WAITERS_FULL when the pool is empty (R28, R29, R48, R49). -/
def Obligations.LookupOnPendingParks : Prop :=
  ∀ (s : State) (p : Port) (e : QEntry) (fp : Fingerprint) (wait : Bool), HasTurn s p e → e.kind = .lookup →
    e.request = .lookup fp wait → fp ≠ 0#256 →
    ∀ s1 n, searchIndex fp (turnBegun p e s) = (s1, some n) →
    imageState (slotGet s1 n) = some .pending →
    let c := (slotGet s1 n).claim
    let r := claimGet s1 c.toNat
    let inUse := (s1.clu.claims.map (fun x => x.2.waiters.length)).sum
    (wait = false →
      exec (.lookupOperation p .whole) s = .next (answered p e (.index (.inProgress c)) (endTurn s1))) ∧
    (wait = true → r.phase ≠ .free → inUse < 2048 →
      exec (.lookupOperation p .whole) s =
        .next (updEntry p e.tag (fun x => { x with phase := .parked }) (endTurn (countNs e.ns .lookups 1
          (claimPut c.toNat
            { r with waiters := r.waiters ++ [{ port := p, ns := e.ns, origin := .single e.tag e.mark }] } s1))))) ∧
    (wait = true → r.phase ≠ .free → 2048 ≤ inUse →
      exec (.lookupOperation p .whole) s =
        .next (answered p e (.index (.retry .waitersFull)) (endTurn s1)))

/-- A LOOKUP of an absent fingerprint: NO_ROOM, then RETRY with CLAIMS_FULL, else the lowest free slot, home bucket first,
and the lowest free claim record are taken, the slot PENDING, and CLAIMED answered with the token (R9, R11, R30, R37, R45 to
R47). -/
def Obligations.LookupInsertsClaim : Prop :=
  ∀ (s : State) (p : Port) (e : QEntry) (fp : Fingerprint) (wait : Bool), HasTurn s p e → e.kind = .lookup →
    e.request = .lookup fp wait → fp ≠ 0#256 →
    ∀ s1, searchIndex fp (turnBegun p e s) = (s1, none) →
    let slots := searchSlots (bucketCount s1) fp
    ((∀ n ∈ slots, imageState (slotGet s1 n) ≠ some .free) →
      exec (.lookupOperation p .whole) s = .next (answered p e (.index .noRoom) (endTurn s1))) ∧
    (∀ (before after : List Nat) (n : Nat), slots = before ++ n :: after →
      (∀ m ∈ before, imageState (slotGet s1 m) ≠ some .free) → imageState (slotGet s1 n) = some .free →
      ((∀ c, c < 1024 → (claimGet s1 c).phase ≠ .free) →
        exec (.lookupOperation p .whole) s =
          .next (answered p e (.index (.retry .claimsFull)) (endTurn s1))) ∧
      (∀ c, c < 1024 → (claimGet s1 c).phase = .free → (∀ d, d < c → (claimGet s1 d).phase ≠ .free) →
        exec (.lookupOperation p .whole) s =
          .next (answered p e
            (.index (.claimed
              { startCount := s1.mif.startCount, claim := BitVec.ofNat 16 c,
                generation := (claimGet s1 c).generation + 1#32 } 0))
            (endTurn (countNs e.ns .claims 1 (countNs e.ns .lookups 1
              (setOccupancy (s1.ixc.occupancy + 1) (slotPut n (imagePending fp c)
                (claimPut c
                  { phase := .held, generation := (claimGet s1 c).generation + 1#32, position := n, fp := fp,
                    claimant := some { port := p, ns := e.ns, origin := .single e.tag e.mark },
                    deadline := s1.tmb.ms + s1.params.claimWindowMs, handover := 0, details := none,
                    waiters := [] } s1)))))))))

/-- PROBE reports what its search matched and changes no entry; REF adds n references as its rules state (R31 to R33). -/
def Obligations.ProbeReportsAndRefAdds : Prop :=
  ∀ (s : State) (p : Port) (e : QEntry) (fp : Fingerprint), HasTurn s p e → fp ≠ 0#256 →
    ∀ s1 found, searchIndex fp (turnBegun p e s) = (s1, found) →
    (e.kind = .probe → e.request = .probe fp →
      (found = none →
        exec (.probeOperation p .whole) s = .next (answered p e (.index .probeMiss) (endTurn s1))) ∧
      (∀ n, found = some n → ∃ o, exec (.probeOperation p .whole) s = .next (answered p e (.index o) (endTurn s1)) ∧
        (imageState (slotGet s1 n) = some .stored → o = .probeHit .stored (slotGet s1 n).loc) ∧
        (imageState (slotGet s1 n) = some .zero → o = .probeHit .zero (slotGet s1 n).loc) ∧
        (imageState (slotGet s1 n) = some .pinned → o = .probeHit .pinned (slotGet s1 n).loc) ∧
        (imageState (slotGet s1 n) = some .pending → o = .inProgress (slotGet s1 n).claim) ∧
        (imageState (slotGet s1 n) = some .suspect → o = .suspect))) ∧
    (∀ k, e.kind = .ref → e.request = .ref fp k →
      (found = none →
        exec (.refOperation p .whole) s = .next (answered p e (.index .notFound) (endTurn s1))) ∧
      (∀ n, found = some n →
        let im := slotGet s1 n
        (imageState im = some .stored →
          exec (.refOperation p .whole) s =
            .next (answered p e (.index (.duplicate im.loc (decide (65535 ≤ im.refcount.toNat + k)) false))
              (endTurn (slotPut n
                (if 65535 ≤ im.refcount.toNat + k then imageCounted .pinned im.fp 0xFFFF#16 im.loc im.ns 0#40
                  else imageCounted .stored im.fp (BitVec.ofNat 16 (im.refcount.toNat + k)) im.loc im.ns 0#40) s1)))) ∧
        (imageState im = some .zero → k < 65535 →
          exec (.refOperation p .whole) s =
            .next (answered p e (.index (.duplicate im.loc false true))
              (endTurn (slotPut n (imageCounted .stored im.fp (BitVec.ofNat 16 k) im.loc im.ns 0#40) s1)))) ∧
        (imageState im = some .pinned →
          exec (.refOperation p .whole) s =
            .next (answered p e (.index (.duplicate im.loc true false)) (endTurn s1))) ∧
        (imageState im = some .pending →
          exec (.refOperation p .whole) s = .next (answered p e (.index (.inProgress im.claim)) (endTurn s1))) ∧
        (imageState im = some .suspect →
          exec (.refOperation p .whole) s = .next (answered p e (.index .suspect) (endTurn s1)))))

/-- RELEASE takes n references from a STORED entry that has as many, leaving it ZERO with the clock as its stamp at 0; a
larger n and a ZERO entry raise UNDERFLOW, and PINNED, PENDING and SUSPECT entries refuse it (R24, R34 to R37). -/
def Obligations.ReleaseSubtractsOrRefuses : Prop :=
  ∀ (s : State) (p : Port) (e : QEntry) (fp : Fingerprint) (k : Nat), HasTurn s p e → e.kind = .release →
    e.request = .release fp k → fp ≠ 0#256 →
    ∀ s1 found, searchIndex fp (turnBegun p e s) = (s1, found) →
    (found = none →
      exec (.releaseOperation p .whole) s = .next (answered p e (.index .notFound) (endTurn s1))) ∧
    (∀ n, found = some n →
      let im := slotGet s1 n
      (imageState im = some .stored → k < im.refcount.toNat →
        exec (.releaseOperation p .whole) s =
          .next (answered p e (.index (.released (BitVec.ofNat 16 (im.refcount.toNat - k))))
            (endTurn (countNs e.ns .releases 1 (slotPut n
              (imageCounted .stored im.fp (BitVec.ofNat 16 (im.refcount.toNat - k)) im.loc im.ns 0#40) s1))))) ∧
      (imageState im = some .stored → im.refcount.toNat = k →
        exec (.releaseOperation p .whole) s =
          .next (answered p e (.index (.released 0#16))
            (endTurn (countNs e.ns .zeroed 1 (countNs e.ns .releases 1 (slotPut n
              (imageCounted .zero im.fp 0#16 im.loc im.ns s1.tmb.clock) s1)))))) ∧
      (imageState im = some .zero ∨ (imageState im = some .stored ∧ im.refcount.toNat < k) →
        exec (.releaseOperation p .whole) s =
          .next (answered p e (.index .underflow) (endTurn (raiseTo p .underflow s1)))) ∧
      (imageState im = some .pinned →
        exec (.releaseOperation p .whole) s = .next (answered p e (.index .pinned) (endTurn s1))) ∧
      (imageState im = some .pending →
        exec (.releaseOperation p .whole) s = .next (answered p e (.index (.inProgress im.claim)) (endTurn s1))) ∧
      (imageState im = some .suspect →
        exec (.releaseOperation p .whole) s = .next (answered p e (.index .suspect) (endTurn s1))))

/-- MOVE: the entry's tests, the source CLOSED, and the placement check at the destination, in that order; then destination
and source are accounted and the entry's location is rewritten with a fresh check code (R80 to R83). Zero-since is kept as
stored, in a damaged STORED or PINNED slot too, which is the model's choice (log 47). -/
def Obligations.MoveTestsThenRewrites : Prop :=
  ∀ (s : State) (p : Port) (e : QEntry) (fp : Fingerprint) (src dst off len : Nat), HasTurn s p e → e.kind = .move →
    e.request = .move fp src dst off len → fp ≠ 0#256 →
    ∀ s1 found, searchIndex fp (turnBegun p e s) = (s1, found) →
    let does (a : Answer) (t : State) : Prop :=
      exec (.moveOperation p .whole) s = .next (answered p e a (endTurn t))
    (found = none → does (.index .notFound) s1) ∧
    (∀ n, found = some n →
      let im := slotGet s1 n
      let d := containerGet s1 dst
      (imageState im = some .pending → does .wrongState s1) ∧
      (imageState im = some .suspect → does (.index .suspect) s1) ∧
      (imageState im = some .stored ∨ imageState im = some .zero ∨ imageState im = some .pinned →
        (im.loc.container.toNat ≠ src → does .wrongLocation s1) ∧
        (im.loc.container.toNat = src → im.loc.length.toNat ≠ len → does .lengthMismatch s1) ∧
        (im.loc.container.toNat = src → im.loc.length.toNat = len →
          ((containerGet s1 src).state ≠ .closed → does .wrongState s1) ∧
          ((containerGet s1 src).state = .closed →
            (d.state ≠ .opened ∨ d.owner ≠ p → does .notOwner s1) ∧
            (d.state = .opened → d.owner = p → off < d.fill → does .overlap s1) ∧
            (d.state = .opened → d.owner = p → d.fill ≤ off → 67108864 < off + len → does .containerFull s1) ∧
            (d.state = .opened → d.owner = p → d.fill ≤ off → off + len ≤ 67108864 →
              ∃ t, exec (.moveOperation p .whole) s = .next (answered p e (.done .none) (endTurn t)) ∧
                slotGet t n =
                  imageFresh { im with
                    loc := { container := BitVec.ofNat 16 dst, offset := BitVec.ofNat 32 off,
                             length := BitVec.ofNat 32 len }, claim := 0#16 } ∧
                (∀ m, m ≠ n → slotGet t m = slotGet s1 m) ∧
                containerGet t dst = { d with fill := off + len, live := d.live + 1, bytes := d.bytes + len } ∧
                containerGet t src =
                  { containerGet s1 src with
                    live := (containerGet s1 src).live - 1, bytes := (containerGet s1 src).bytes - len } ∧
                (∀ c, c ≠ src → c ≠ dst → containerGet t c = containerGet s1 c) ∧
                t.ports = s1.ports ∧ t.ixc = s1.ixc ∧ t.clu = s1.clu ∧ t.ctu = s1.ctu ∧ t.bte = s1.bte ∧
                t.swp = s1.swp ∧ t.tmb = s1.tmb ∧ t.nst = s1.nst ∧ t.stu = s1.stu ∧ t.mif = s1.mif ∧
                t.params = s1.params ∧ t.mem.header = s1.mem.header ∧ t.mem.settings = s1.mem.settings)))))

/-- READ_SLOT answers with the slot as stored and its check flag and changes nothing; DROP frees a STORED, ZERO, PINNED or
SUSPECT slot, lowers occupancy and takes the entry out of its container's counts (R80, R103 to R105); an occupancy of 0
stays at 0, which is the model's choice (log 34). -/
def Obligations.ReadSlotAndDropNameOneSlot : Prop :=
  ∀ (s : State) (p : Port) (e : QEntry) (q : Position), HasTurn s p e →
    let n := q.bucket * 8 + q.index
    let s0 := turnBegun p e s
    let im := slotGet s0 n
    (e.kind = .readSlot → e.request = .readSlot q →
      exec (.readSlotOperation p .whole) s =
        .next (answered p e (.done (.slot im (imageHolds im))) (endTurn s0))) ∧
    (e.kind = .drop → e.request = .drop q →
      (imageState im = some .stored ∨ imageState im = some .zero ∨ imageState im = some .pinned ∨
          imageState im = some .suspect →
        exec (.dropOperation p .whole) s =
          .next (answered p e (.done .none) (endTurn (setOccupancy (s0.ixc.occupancy - 1)
            (containerPut im.loc.container.toNat
              { containerGet s0 im.loc.container.toNat with
                live := (containerGet s0 im.loc.container.toNat).live - 1,
                bytes := (containerGet s0 im.loc.container.toNat).bytes - im.loc.length.toNat }
              (slotPut n SlotImage.free s0)))))) ∧
      (imageState im = some .free ∨ imageState im = some .pending ∨ imageState im = none →
        exec (.dropOperation p .whole) s = .next (answered p e .wrongState (endTurn s0))))

/-- RESTORE: the slot must be SUSPECT and in a bucket of the fingerprint, no other slot may hold the fingerprint, and the
accounting transfer must pass; then the slot is written with the supplied entry and the containers are accounted, the gain
before the loss, which is the model's reading of R84 (log 37), so that one container that is both keeps its counts at equal
lengths (R84, R106, R107). -/
def Obligations.RestoreRewritesSuspectSlot : Prop :=
  ∀ (s : State) (p : Port) (e : QEntry) (r : RestoreBody), HasTurn s p e → e.kind = .restore →
    e.request = .restore r → r.fp ≠ 0#256 →
    let n := r.pos.bucket * 8 + r.pos.index
    let s0 := turnBegun p e s
    let bc := bucketCount s0
    let others := (searchSlots bc r.fp).filter (fun m => decide (m ≠ n))
    let does (a : Answer) (t : State) : Prop :=
      exec (.restoreOperation p .whole) s = .next (answered p e a (endTurn t))
    (imageState (slotGet s0 n) ≠ some .suspect → does .wrongState s0) ∧
    (imageState (slotGet s0 n) = some .suspect →
      (r.pos.bucket ≠ homeBucket bc r.fp → r.pos.bucket ≠ alternateBucket bc r.fp → does .mismatch s0) ∧
      (r.pos.bucket = homeBucket bc r.fp ∨ r.pos.bucket = alternateBucket bc r.fp →
        ∀ s1 found, searchFrom r.fp others s0 = (s1, found) →
        (found ≠ none → does .mismatch s1) ∧
        (found = none →
          let c := r.loc.container.toNat
          let top := r.loc.offset.toNat + r.loc.length.toNat
          let old := (slotGet s1 n).loc
          let gained := containerPut c
            { containerGet s1 c with
              fill := max (containerGet s1 c).fill top, live := (containerGet s1 c).live + 1,
              bytes := (containerGet s1 c).bytes + r.loc.length.toNat } s1
          let d := containerGet gained old.container.toNat
          let moved := containerPut old.container.toNat
            { d with live := d.live - 1, bytes := d.bytes - old.length.toNat } gained
          ((containerGet s1 c).state = .free → does .wrongState s1) ∧
          ((containerGet s1 c).state ≠ .free → 67108864 < top → does .containerFull s1) ∧
          ((containerGet s1 c).state ≠ .free → top ≤ 67108864 →
            does (.done .none) (slotPut n (imageCounted r.state r.fp r.refcount r.loc r.ns 0#40) moved) ∧
            (old.container.toNat = c → old.length = r.loc.length →
              containerGet moved c = { containerGet s1 c with fill := max (containerGet s1 c).fill top })))))

/-- A fingerprint of 32 zero bytes is answered BAD_FINGERPRINT by every kind that names an entry by fingerprint, and changes
nothing (R1, R22, R54, R56, R83, R106); a batch item with it takes that outcome, and the batch goes on (R115). -/
def Obligations.ZeroFingerprintIsRefused : Prop :=
  (∀ (s : State) (p : Port) (e : QEntry) (c : Instr), HasTurn s p e → turnCommand e.kind p .whole = some c →
    requestKind e.request = e.kind →
    ((∃ w, e.request = .lookup 0#256 w) ∨ e.request = .probe 0#256 ∨ (∃ k, e.request = .ref 0#256 k) ∨
      (∃ k, e.request = .release 0#256 k) ∨ (∃ a b o l, e.request = .move 0#256 a b o l) ∨
      (∃ r, e.request = .restore r ∧ r.fp = 0#256)) →
    exec c s = .next (answered p e (.index .badFingerprint) (endTurn (turnBegun p e s)))) ∧
  (∀ (s : State) (p : Port) (e : QEntry) (tok : Token) (l : Location), CanTake s p e →
    (e.kind = .commit → e.request = .commit tok 0#256 l →
      exec (.commit p (.take e.tag)) s = .next (answered p e (.index .badFingerprint) s)) ∧
    (e.kind = .abandon → e.request = .abandon tok 0#256 →
      exec (.abandon p (.take e.tag)) s = .next (answered p e (.index .badFingerprint) s))) ∧
  (∀ (s : State) (n : Nat) (i : BatchItem), s.powered = true → nextRequester s = some .bte → s.bte.held = some n →
    (contextGet s n).phase = .running → (contextGet s n).cancelled = false →
    (contextGet s n).items[(contextGet s n).cursor]? = some i → i.fp = 0#256 →
    let s0 := grantTurn .bte (.item n) { s with bte := { s.bte with held := none } }
    let c := contextGet s n
    let c' : Context := { c with
      cursor := c.cursor + 1, outcomes := c.outcomes.set c.cursor (.answered .badFingerprint) }
    (c.cursor + 1 < c.items.length →
      exec (.batchItemOperation .whole) s = .next (presentItem (endTurn (contextPut n c' s0)))) ∧
    (c.items.length ≤ c.cursor + 1 → c.parked ≠ 0 →
      exec (.batchItemOperation .whole) s =
        .next (presentItem (endTurn (contextPut n { c' with phase := .awaiting } s0)))) ∧
    (c.items.length ≤ c.cursor + 1 → c.parked = 0 →
      ∃ t, exec (.batchItemOperation .whole) s = .next (presentItem (endTurn t)) ∧ contextGet t n = Context.zero ∧
        (∀ m, m ≠ n → contextGet t m = contextGet s m) ∧
        t.ports =
          (answer c.port c.tag c.mark (.batchDone (c.cursor + 1) (c'.outcomes.map itemOutcome)) s0).ports ∧
        t.mem = s.mem ∧ t.clu = s.clu ∧ t.ixc = s0.ixc ∧ t.stu = s.stu ∧ t.ctu = s.ctu ∧ t.swp = s.swp ∧
        t.tmb = s.tmb ∧ t.nst = s.nst ∧ t.mif = s.mif ∧ t.params = s.params))

/-! ## Claims -/

/-- COMMIT, ABANDON and CANCEL as the claim unit takes them: the token's five tests, LATE and MISMATCH, SETTLING with the
update queued, the claim given up, and CANCEL by what its target is (R46, R54, R56, R61, R62). Where one event makes two
responses, a waiter's CLAIMED before ABANDON's DONE and WITHDRAWN before CANCEL's DONE, their order is the model's choice
(log 33). -/
def Obligations.ClaimRequestsAreTested : Prop :=
  ∀ (s : State) (p : Port) (e : QEntry), CanTake s p e → tableWf ClaimRec.zero s.clu.claims = true →
    (∀ (tok : Token) (fp : Fingerprint), fp ≠ 0#256 →
      let n := tok.claim.toNat
      let r := claimGet s n
      let valid : Prop :=
        tok.startCount = s.mif.startCount ∧ n < 1024 ∧ r.phase = .held ∧ tok.generation = r.generation ∧
          ∃ w, r.claimant = some w ∧ w.port = p
      (∀ l, e.kind = .commit → e.request = .commit tok fp l →
        (¬ valid → exec (.commit p (.take e.tag)) s = .next (answered p e .late s)) ∧
        (valid → fp ≠ r.fp → exec (.commit p (.take e.tag)) s = .next (answered p e .mismatch s)) ∧
        (valid → fp = r.fp →
          exec (.commit p (.take e.tag)) s =
            .next { updEntry p e.tag (fun x => { x with taken := true }) s with
              clu := { s.clu with
                claims := tableSet ClaimRec.zero s.clu.claims n
                  { r with phase := .settling, details := some { loc := l, tag := e.tag, mark := e.mark } },
                updates := s.clu.updates ++ [.entry n] } })) ∧
      (e.kind = .abandon → e.request = .abandon tok fp →
        (¬ valid → exec (.abandon p (.take e.tag)) s = .next (answered p e .late s)) ∧
        (valid → exec (.abandon p (.take e.tag)) s =
          .next (answer p e.tag e.mark (.done .none) (releaseClaim n s))))) ∧
    (∀ target, e.kind = .cancel → e.request = .cancel target →
      (queued s p target = none → exec (.cancel p (.take e.tag)) s = .next (answered p e .tooLate s)) ∧
      (∀ x, queued s p target = some x →
        let batch := x.kind = .lookupBatch ∨ x.kind = .probeBatch ∨ x.kind = .releaseBatch
        (x.phase = .parked →
          ∃ s1, exec (.cancel p (.take e.tag)) s =
              .next (answer p e.tag e.mark (.done .none) (answer p x.tag x.mark (.index .withdrawn) s1)) ∧
            s1 = { s with clu := { s.clu with claims := s1.clu.claims } } ∧
            ∀ n, claimGet s1 n =
              { claimGet s n with
                waiters := (claimGet s n).waiters.filter (fun w =>
                  !(decide (w.port = p) && (match w.origin with
                    | .single t _ => decide (t = target)
                    | .item _ _ => false))) }) ∧
        (x.phase ≠ .parked → batch →
          exec (.cancel p (.take e.tag)) s =
            .next { updEntry p e.tag (fun x => { x with taken := true }) s with
              bte := { s.bte with inbox := s.bte.inbox ++ [.cancellation p target e.tag e.mark] } }) ∧
        (x.phase ≠ .parked → ¬ batch →
          exec (.cancel p (.take e.tag)) s = .next (answered p e .tooLate s))))

/-- Release of a claim: the head of the waiter list becomes claimant with a new generation, deadline and handover count and
is answered CLAIMED, or with no waiter the record closes and its freeing update is queued. An expiry notices, counts and
releases (R47, R50 to R52, R55). -/
def Obligations.ReleasedClaimsAreHandedOver : Prop :=
  (∀ (s : State) (n : Nat),
    let r := claimGet s n
    (r.waiters = [] →
      releaseClaim n s =
        { s with clu := { s.clu with
            claims := tableSet ClaimRec.zero s.clu.claims n
              { r with phase := .closing, claimant := none, deadline := 0, details := none },
            updates := s.clu.updates ++ [.freeing n] } }) ∧
    (∀ w rest, r.waiters = w :: rest →
      let t := countNs w.ns .claims 1 (claimPut n
        { r with
          phase := .held, generation := r.generation + 1#32, claimant := some w,
          deadline := s.tmb.ms + s.params.claimWindowMs, handover := min 255 (r.handover + 1), details := none,
          waiters := rest } s)
      let o : IndexOutcome := .claimed
        { startCount := s.mif.startCount, claim := BitVec.ofNat 16 n, generation := r.generation + 1#32 }
        (min 255 (r.handover + 1))
      (∀ tag mark, w.origin = .single tag mark → releaseClaim n s = answer w.port tag mark (.index o) t) ∧
      (∀ ctx idx, w.origin = .item ctx idx →
        releaseClaim n s =
          { t with bte := { t.bte with inbox := t.bte.inbox ++ [.itemAnswer ctx idx w.port o] } }))) ∧
  (∀ (s : State) (n : Nat), s.powered = true →
    (∀ m, s.ixc.inProgress ≠ some (.entryUpdate m) ∧ s.ixc.inProgress ≠ some (.freeing m)) →
    (∀ w, (claimGet s n).phase = .held → (claimGet s n).deadline ≤ s.tmb.ms → (claimGet s n).claimant = some w →
      exec (.claimExpiry n) s =
        .next (releaseClaim n (countPort w.port .expiredClaims 1 (raiseTo w.port .claimExpired s)))) ∧
    ((claimGet s n).phase ≠ .held ∨ s.tmb.ms < (claimGet s n).deadline →
      exec (.claimExpiry n) s = .next s))

/-- The entry update at commit: the slot verified and made to name the claim; a placement refused puts the record back in
HELD with its deadline, and a passed one writes the entry STORED, frees the record, counts, and answers waiters and COMMIT.
The freeing update frees slot and record, or hands the claim to a waiter that parked meanwhile (R11, R50, R53, R57 to R59,
R81). A waiter is answered by its port unit, or as a batch item by an item answer (R51, R58, R118). That a SUSPECT slot at
the position is written again too (log 35), that the waiters' responses come before COMMIT's, and a refused COMMIT's before
those of an expiry in the same event (log 33), and that an occupancy of 0 stays at 0 (log 34) are the model's choices. -/
def Obligations.ClaimUpdatesAreTheirRules : Prop :=
  (∀ (s : State) (w : Waiter) (o : IndexOutcome),
     (∀ tag mark, w.origin = .single tag mark → answerWaiter w o s = answer w.port tag mark (.index o) s) ∧
     (∀ ctx idx, w.origin = .item ctx idx →
       answerWaiter w o s = { s with bte := { s.bte with inbox := s.bte.inbox ++ [.itemAnswer ctx idx w.port o] } })) ∧
  (∀ (s : State) (n : Nat) (rest : List Update), s.powered = true → nextRequester s = some .clu →
     s.clu.updates = .entry n :: rest →
     let s0 := grantTurn .clu (.entryUpdate n) { s with clu := { s.clu with updates := rest } }
     let verified := verifySlot (claimGet s0 n).position s0
     let slot := slotGet verified (claimGet s0 n).position
     let named := imageState slot = some .pending ∧ slot.claim = BitVec.ofNat 16 n ∧ slot.fp = (claimGet s0 n).fp
     ∀ s1, (named → s1 = verified) →
       (¬ named → s1 = slotPut (claimGet s0 n).position (imagePending (claimGet s0 n).fp n) verified) →
     ∀ w d, (claimGet s1 n).claimant = some w → (claimGet s1 n).details = some d →
       let r := claimGet s1 n
       let c := containerGet s1 d.loc.container.toNat
       let off := d.loc.offset.toNat
       let len := d.loc.length.toNat
       let refuses (a : Answer) : Prop :=
         let t := answer w.port d.tag d.mark a (claimPut n { r with phase := .held, details := none } s1)
         (s1.tmb.ms < r.deadline → exec (.commitEntryUpdate .whole) s = .next (endTurn t)) ∧
         (r.deadline ≤ s1.tmb.ms →
           exec (.commitEntryUpdate .whole) s =
             .next (endTurn (releaseClaim n (countPort w.port .expiredClaims 1 (raiseTo w.port .claimExpired t)))))
       (c.state ≠ .opened ∨ c.owner ≠ w.port → refuses .notOwner) ∧
       (c.state = .opened → c.owner = w.port → off < c.fill → refuses .overlap) ∧
       (c.state = .opened → c.owner = w.port → c.fill ≤ off → 67108864 < off + len → refuses .containerFull) ∧
       (c.state = .opened → c.owner = w.port → c.fill ≤ off → off + len ≤ 67108864 →
         let placed := containerPut d.loc.container.toNat
           { c with fill := off + len, live := c.live + 1, bytes := c.bytes + len } s1
         let entered := slotPut r.position
           (imageCounted .stored r.fp (BitVec.ofNat 16 (1 + r.waiters.length)) d.loc (BitVec.ofNat 8 w.ns) 0#40) placed
         let freed := claimPut n { ClaimRec.zero with generation := r.generation } entered
         let counted := r.waiters.foldl
           (fun t x => countNs x.ns .hitBytes len (countNs x.ns .hits 1 t))
           (countNs w.ns .commitBytes len (countNs w.ns .commits 1 freed))
         exec (.commitEntryUpdate .whole) s =
           .next (endTurn (answer w.port d.tag d.mark .committed
             (r.waiters.foldl (fun t x => answerWaiter x (.duplicate d.loc false false) t) counted))))) ∧
  (∀ (s : State) (n : Nat) (rest : List Update), s.powered = true → nextRequester s = some .clu →
     s.clu.updates = .freeing n :: rest →
     let s0 := grantTurn .clu (.freeing n) { s with clu := { s.clu with updates := rest } }
     let verified := verifySlot (claimGet s0 n).position s0
     let slot := slotGet verified (claimGet s0 n).position
     let named := imageState slot = some .pending ∧ slot.claim = BitVec.ofNat 16 n ∧ slot.fp = (claimGet s0 n).fp
     ∀ s1, (named → s1 = verified) →
       (¬ named → s1 = slotPut (claimGet s0 n).position (imagePending (claimGet s0 n).fp n) verified) →
       let r := claimGet s1 n
       (r.waiters = [] →
         exec (.freeingUpdate .whole) s =
           .next (endTurn (claimPut n { ClaimRec.zero with generation := r.generation }
             (setOccupancy (s1.ixc.occupancy - 1) (slotPut r.position SlotImage.free s1))))) ∧
       (r.waiters ≠ [] → exec (.freeingUpdate .whole) s = .next (endTurn (releaseClaim n s1))))

/-! ## Batches -/

/-- LOOKUP_BATCH, PROBE_BATCH and RELEASE_BATCH as the batch engine takes them: RETRY with NO_CONTEXT, then CHECK_FAIL, else
the lowest free context filled, the batch staying queued with its number (R112, R113). -/
def Obligations.BatchStartFillsContext : Prop :=
  (∀ (s : State) (p : Port) (e : QEntry) (b : BatchBody) (c : Instr), CanTake s p e →
    e.kind = .lookupBatch ∨ e.kind = .probeBatch ∨ e.kind = .releaseBatch →
    blockCommand e.kind p (.take e.tag) = some c → e.request = .batch b →
    ((∀ n, n < 8 → (contextGet s n).phase ≠ .free) →
      exec c s = .next (answered p e (.index (.retry .noContext)) s)) ∧
    (∀ n, n < 8 → (contextGet s n).phase = .free → (∀ m, m < n → (contextGet s m).phase ≠ .free) →
      (b.checkWord ≠ checkWordOf b.items → exec c s = .next (answered p e .checkFail s)) ∧
      (b.checkWord = checkWordOf b.items →
        exec c s =
          .next (presentItem (contextPut n
            { phase := .running, port := p, tag := e.tag, mark := e.mark, kind := b.kind, ns := e.ns, wait := b.wait,
              items := b.items, cursor := 0, outcomes := b.items.map (fun _ => .untaken), parked := 0,
              cancelled := false, withdrawal := false }
            (updEntry p e.tag (fun x => { x with taken := true, context := some n }) s)))))) ∧
  (∀ items, checkWordOf items =
    items.foldl (fun w i =>
      w ^^^ (i.fp.extractLsb' 0 32 ^^^ i.fp.extractLsb' 32 32 ^^^ i.fp.extractLsb' 64 32 ^^^
        i.fp.extractLsb' 96 32 ^^^ i.fp.extractLsb' 128 32 ^^^ i.fp.extractLsb' 160 32 ^^^
        i.fp.extractLsb' 192 32 ^^^ i.fp.extractLsb' 224 32)) 0#32)

/-- An item's operation does the work of a single request of its kind for the batch's port and namespace, records its
outcome or that it parked, and at the last item the batch is answered or AWAITING; the next item is presented counting
onward from the rotation pointer (R114, R115, R117, R119, R120). The work named is what LOOKUP, PROBE and RELEASE do at
their turns, and it is the same for a single request and an item but for the waiter it leaves (R28, R43, R115). -/
def Obligations.BatchItemRunsAndRecords : Prop :=
  (∀ (s : State) (p : Port) (e : QEntry) (fp : Fingerprint), HasTurn s p e →
    let s0 := turnBegun p e s
    (∀ wait, e.kind = .lookup → e.request = .lookup fp wait →
      let r := lookupCore { port := p, ns := e.ns, origin := .single e.tag e.mark } fp wait s0
      (∀ o, r.2 = some o → exec (.lookupOperation p .whole) s = .next (answered p e (.index o) (endTurn r.1))) ∧
      (r.2 = none →
        exec (.lookupOperation p .whole) s =
          .next (updEntry p e.tag (fun x => { x with phase := .parked }) (endTurn r.1)))) ∧
    (e.kind = .probe → e.request = .probe fp →
      let r := probeCore fp s0
      exec (.probeOperation p .whole) s = .next (answered p e (.index r.2) (endTurn r.1))) ∧
    (∀ k, e.kind = .release → e.request = .release fp k →
      let r := releaseCore p e.ns fp k s0
      exec (.releaseOperation p .whole) s = .next (answered p e (.index r.2) (endTurn r.1)))) ∧
  (∀ (s : State) (p : Port) (ns : Nat) (a b : Origin) (fp : Fingerprint) (wait : Bool),
    let wa : Waiter := { port := p, ns := ns, origin := a }
    let wb : Waiter := { port := p, ns := ns, origin := b }
    let t := lookupCore wa fp wait s
    let u := lookupCore wb fp wait s
    t.2 = u.2 ∧ u.1 = { t.1 with clu := { t.1.clu with claims := u.1.clu.claims } } ∧
    ∀ n,
      claimGet t.1 n = claimGet u.1 n ∨
      (∃ r : ClaimRec, claimGet t.1 n = { r with claimant := some wa } ∧ claimGet u.1 n = { r with claimant := some wb }) ∨
      (∃ r : ClaimRec, claimGet t.1 n = { r with waiters := r.waiters ++ [wa] } ∧
        claimGet u.1 n = { r with waiters := r.waiters ++ [wb] })) ∧
  (∀ (s : State) (n : Nat) (i : BatchItem), s.powered = true → nextRequester s = some .bte → s.bte.held = some n →
    (contextGet s n).phase = .running → (contextGet s n).cancelled = false →
    (contextGet s n).items[(contextGet s n).cursor]? = some i →
    let s0 := grantTurn .bte (.item n) { s with bte := { s.bte with held := none } }
    let c := contextGet s n
    ∀ t o,
      (c.kind = .lookup →
        lookupCore { port := c.port, ns := c.ns, origin := .item n c.cursor } i.fp c.wait s0 = (t, o)) →
      (c.kind = .probe → probeCore i.fp s0 = (t, o.getD .notTaken) ∧ o ≠ none) →
      (c.kind = .release → releaseCore c.port c.ns i.fp i.n s0 = (t, o.getD .notTaken) ∧ o ≠ none) →
      let c' : Context := { c with
        cursor := c.cursor + 1,
        outcomes := c.outcomes.set c.cursor (match o with | some x => .answered x | none => .parked),
        parked := if o = none then c.parked + 1 else c.parked }
      (c.cursor + 1 < c.items.length →
        exec (.batchItemOperation .whole) s = .next (presentItem (endTurn (contextPut n c' t)))) ∧
      (c.items.length ≤ c.cursor + 1 → c'.parked ≠ 0 →
        exec (.batchItemOperation .whole) s =
          .next (presentItem (endTurn (contextPut n { c' with phase := .awaiting } t)))) ∧
      (c.items.length ≤ c.cursor + 1 → c'.parked = 0 →
        ∃ t', exec (.batchItemOperation .whole) s = .next (presentItem (endTurn t')) ∧
          contextGet t' n = Context.zero ∧ (∀ m, m ≠ n → contextGet t' m = contextGet s m) ∧
          t'.ports =
            (answer c.port c.tag c.mark (.batchDone (c.cursor + 1) (c'.outcomes.map itemOutcome)) t).ports ∧
          t'.mem = t.mem ∧ t'.clu = t.clu ∧ t'.ixc = t.ixc ∧ t'.stu = t.stu ∧ t'.ctu = t.ctu ∧ t'.swp = t.swp ∧
          t'.tmb = t.tmb ∧ t'.nst = t.nst ∧ t'.mif = t.mif ∧ t'.params = t.params)) ∧
  (∀ s : State,
    (s.bte.held ≠ none → presentItem s = s) ∧
    (s.bte.held = none → (∀ n, n < 8 → hasItem (contextGet s n) = false) → presentItem s = s) ∧
    (∀ d, d < 8 → s.bte.held = none → hasItem (contextGet s ((s.bte.rotation + d) % 8)) = true →
      (∀ d', d' < d → hasItem (contextGet s ((s.bte.rotation + d') % 8)) = false) →
      presentItem s =
        { s with bte := { s.bte with
            held := some ((s.bte.rotation + d) % 8), rotation := ((s.bte.rotation + d) % 8 + 1) % 8 } }))

/-- The claim unit's messages to the batch engine, taken first in, first out: an item answer for a PARKED item of its port,
a withdrawal answer while a withdrawal is outstanding, and a teardown completion; any other is dropped (R111, R118, R119,
R120, R123, R125). -/
def Obligations.ClaimUnitMessagesAreTaken : Prop :=
  ∀ (s : State) (rest : List BteMessage), s.powered = true → (∀ n, s.ixc.inProgress ≠ some (.item n)) →
    tableWf Context.zero s.bte.contexts = true →
    let s0 : State := { s with bte := { s.bte with inbox := rest } }
    let inUse (c : Context) : Prop := c.phase = .running ∨ c.phase = .awaiting ∨ c.phase = .finished
    let settles (c : Context) (n : Nat) : State :=
      if c.phase = .awaiting ∧ c.parked = 0 ∧ c.withdrawal = false then
        presentItem (contextPut n Context.zero
          (answer c.port c.tag c.mark
            (if c.cancelled = true then .cancelled c.cursor (c.outcomes.map itemOutcome)
              else .batchDone c.cursor (c.outcomes.map itemOutcome)) (contextPut n c s0)))
      else presentItem (contextPut n c s0)
    (∀ n i p o, s.bte.inbox = .itemAnswer n i p o :: rest →
      let c := contextGet s n
      (inUse c → c.port = p → c.outcomes[i]? = some .parked →
        exec .itemAnswer s =
          .next (settles { c with outcomes := c.outcomes.set i (.answered o), parked := c.parked - 1 } n)) ∧
      (¬ inUse c ∨ c.port ≠ p ∨ c.outcomes[i]? ≠ some .parked → exec .itemAnswer s = .next s0)) ∧
    (∀ n p idxs, s.bte.inbox = .withdrawalAnswer n p idxs :: rest →
      let c := contextGet s n
      (inUse c → c.port = p → c.withdrawal = true →
        ∃ outs k, exec .withdrawalAnswer s =
            .next (settles { c with outcomes := outs, parked := k, withdrawal := false } n) ∧
          (∀ i, outs[i]? =
            if i ∈ idxs ∧ c.outcomes[i]? = some .parked then some (.answered .withdrawn) else c.outcomes[i]?) ∧
          (idxs.Nodup → k = c.parked - idxs.countP (fun i => decide (c.outcomes[i]? = some .parked)))) ∧
      (¬ inUse c ∨ c.port ≠ p ∨ c.withdrawal = false → exec .withdrawalAnswer s = .next s0)) ∧
    (∀ p, s.bte.inbox = .teardownCompletion p :: rest →
      ∃ t, exec .teardownCompletion s = .next { s0 with bte := { s0.bte with contexts := t } } ∧
        ∀ n, tableGet Context.zero t n =
          if (contextGet s n).phase = .withheld p then Context.zero else contextGet s n)

/-- A cancellation of a batch: TOO_LATE without a context in use or with one cancelled already; else CANCEL is answered
DONE, items not taken become NOT_TAKEN, and the batch is answered CANCELLED at once, behind CANCEL's DONE, an order that is
the model's choice (log 33), or when its parked items are withdrawn (R122). The claim unit takes the earliest withdrawal
request, an order that is the model's choice (log 44): the batch's waiters leave their lists, the others keep their order,
and the answer lists the items removed (R123). -/
def Obligations.BatchesAreWithdrawn : Prop :=
  (∀ (s : State) (rest : List BteMessage) (p : Port) (target tag : Tag) (mark : Session), s.powered = true →
     (∀ n, s.ixc.inProgress ≠ some (.item n)) → s.bte.inbox = .cancellation p target tag mark :: rest →
     let s0 : State := { s with bte := { s.bte with inbox := rest } }
     (findContext s p target = none → exec .batchCancellation s = .next (answer p tag mark .tooLate s0)) ∧
     (∀ n, findContext s p target = some n →
       let c := contextGet s n
       let outs := c.outcomes.map (fun o => match o with | .untaken => .answered .notTaken | o => o)
       let told := answer p tag mark (.done .none) s0
       let held := if s.bte.held = some n then none else s.bte.held
       (c.cancelled = true → exec .batchCancellation s = .next (answer p tag mark .tooLate s0)) ∧
       (c.cancelled = false → c.parked = 0 →
         ∃ t, exec .batchCancellation s = .next (presentItem t) ∧ contextGet t n = Context.zero ∧
           t.bte.held = held ∧ t.clu = s.clu ∧
           t.ports = (answer c.port c.tag c.mark (.cancelled c.cursor (outs.map itemOutcome)) told).ports ∧
           ∀ m, m ≠ n → contextGet t m = contextGet s m) ∧
       (c.cancelled = false → c.parked ≠ 0 →
         exec .batchCancellation s =
           .next (presentItem { contextPut n
               { c with cancelled := true, outcomes := outs, withdrawal := true, phase := .awaiting }
               { told with bte := { told.bte with held := held } } with
             clu := { s.clu with withdrawals := s.clu.withdrawals ++ [(n, c.port)] } })))) ∧
  (∀ (s : State) (n : Nat) (p : Port) (rest : List (Nat × Port)), s.powered = true →
     (∀ m, s.ixc.inProgress ≠ some (.entryUpdate m) ∧ s.ixc.inProgress ≠ some (.freeing m)) →
     tableWf ClaimRec.zero s.clu.claims = true → s.clu.withdrawals = (n, p) :: rest →
     let mine (w : Waiter) : Bool :=
       decide (w.port = p) && (match w.origin with | .item c _ => decide (c = n) | .single _ _ => false)
     ∃ claims idxs,
       exec .withdrawalRequest s =
         .next { s with
           clu := { s.clu with claims := claims, withdrawals := rest },
           bte := { s.bte with inbox := s.bte.inbox ++ [.withdrawalAnswer n p idxs] } } ∧
       (∀ m, tableGet ClaimRec.zero claims m =
         { claimGet s m with waiters := (claimGet s m).waiters.filter (fun w => !mine w) }) ∧
       (∀ i, i ∈ idxs ↔ ∃ x ∈ s.clu.claims, ∃ w ∈ x.2.waiters, w.port = p ∧ w.origin = .item n i))

/-! ## Withdrawals and teardown of claims and batches -/

/-- The claim unit's part of a teardown, after the batch engine's: the port's waiters leave every list, and each claim of the
port in HELD or SETTLING is handed over or closed with its freeing update queued; then the completion is sent (R64 to R66,
R125, R152). -/
def Obligations.ClaimTeardownGivesUpClaims : Prop :=
  ∀ (s : State) (p : Port), s.powered = true → tableWf ClaimRec.zero s.clu.claims = true →
    let may := (portUnit s p).teardownClu = true ∧ (portUnit s p).teardownBte = false ∧
      (∀ e, s.ixc.inProgress ≠ some (.port p e)) ∧
      ∀ m, s.ixc.inProgress ≠ some (.entryUpdate m) ∧ s.ixc.inProgress ≠ some (.freeing m)
    (may →
      ∃ t, exec (.cluTeardown p) s =
          .next (evalAdmission p (updPort p (fun u => { u with teardownClu := false }) t)) ∧
        (∀ n,
          let r := claimGet s n
          let ws := r.waiters.filter (fun w => !decide (w.port = p))
          let mine := (r.phase = .held ∨ r.phase = .settling) ∧ ∃ w, r.claimant = some w ∧ w.port = p
          (¬ mine → claimGet t n = { r with waiters := ws }) ∧
          (mine → ws = [] →
            claimGet t n =
              { r with phase := .closing, claimant := none, deadline := 0, details := none, waiters := [] } ∧
            .freeing n ∈ t.clu.updates ∧ .entry n ∉ t.clu.updates) ∧
          (∀ w rest, mine → ws = w :: rest →
            claimGet t n =
              { r with
                phase := .held, generation := r.generation + 1#32, claimant := some w,
                deadline := s.tmb.ms + s.params.claimWindowMs, handover := min 255 (r.handover + 1), details := none,
                waiters := rest } ∧
            .entry n ∉ t.clu.updates)) ∧
        t.bte.inbox.getLast? = some (.teardownCompletion p) ∧ t.mem = s.mem ∧ t.ixc = s.ixc ∧ t.ctu = s.ctu ∧
        t.bte.contexts = s.bte.contexts ∧ t.swp = s.swp ∧ t.tmb = s.tmb ∧ t.nst = s.nst ∧ t.mif = s.mif ∧
        t.params = s.params ∧ t.clu.withdrawals = s.clu.withdrawals) ∧
    (¬ may → exec (.cluTeardown p) s = .next s)

/-! ## The sweeper -/

/-- A bucket operation deals with the eight slots at the cursor by mode, grace and clock of its grant: SCRUB verifies each,
PURGE one past grace; a ZERO entry past grace is freed and counted. Then allowance, cursor, pass count and SWEEP_DONE (R94,
R97 to R100); an occupancy of 0 stays at 0, which is the model's choice (log 34). -/
def Obligations.SweeperDealsWithBucket : Prop :=
  ∀ (s : State), s.powered = true → nextRequester s = some .swp →
    let now := s.tmb.clock.toNat
    let due (t : State) (n : Nat) : Bool :=
      decide (imageState (slotGet t n) = some .zero) &&
        decide ((slotGet t n).zeroSince.toNat + s.params.graceS ≤ now)
    let purged (t : State) (n : Nat) : State :=
      let im := slotGet t n
      countNs im.ns.toNat .purgeBytes im.loc.length.toNat (countNs im.ns.toNat .purges 1
        (departEntry im.loc.container.toNat im.loc.length.toNat
          (setOccupancy (t.ixc.occupancy - 1) (slotPut n SlotImage.free t))))
    let swept (t : State) (n : Nat) : State :=
      let v := verifySlot n t
      match s.params.sweepMode with
      | .off => t
      | .scrub => if due v n = true then purged v n else v
      | .purge => if due t n = true then (if due v n = true then purged v n else v) else t
    let t := ((List.range 8).map (fun i => s.swp.cursor * 8 + i)).foldl swept
      (grantTurn .swp (.sweep s.params.sweepMode s.params.graceS s.tmb.clock) s)
    (s.swp.cursor + 1 < bucketCount s →
      exec (.sweeperBucketOperation .whole) s =
        .next (endTurn { t with swp :=
          { s.swp with allowance := s.swp.allowance - 1, cursor := s.swp.cursor + 1 } })) ∧
    (bucketCount s ≤ s.swp.cursor + 1 →
      exec (.sweeperBucketOperation .whole) s =
        .next (endTurn (raiseAll .sweepDone { t with swp :=
          { cursor := 0, passCount := s.swp.passCount + 1#32, allowance := s.swp.allowance - 1 } })))

/-! ## Frames and invariants -/

/-- What a master writes for a request is what the port reads: every request in range, of every kind, under every namespace
and tag (R134, R181). What the port reads is in range, of the frame's kind, and spelled by the frame: format, flags,
namespace, and a body of exactly the kind's length and bytes, but for a map that is not given; every other frame is none
(R22, R56, R83, R106, R109, R134, R141, R181). -/
def Obligations.RequestFramesReadBack : Prop :=
  (∀ (r : Request) (ns : Nat) (tag : Tag), requestInRange r = true → ns ≤ 63 →
    readRequest (requestKind r) (requestFrame r ns tag) = some r) ∧
  (∀ (p : Option Port) (a : Option Bool) (ns : Nat) (tag : Tag) (map : List Byte), ns ≤ 63 → map.length = 8 →
    let f := requestFrame (.setPort p none a) ns tag
    readRequest .setPort { f with body := f.body.take 2 ++ map ++ f.body.drop 10 } = some (.setPort p none a)) ∧
  (∀ (k : Kind) (f : RequestFrame) (r : Request), readRequest k f = some r →
    requestInRange r = true ∧ requestKind r = k ∧ f.format = 0x01#8 ∧ f.ns.toNat ≤ 63 ∧
    f.bodyLength.toNat = f.body.length ∧
    (f.flags = 0x00#8 ∧ requestWaits r = false ∨
      f.flags = 0x01#8 ∧ requestWaits r = true ∧ (k = .lookup ∨ k = .lookupBatch)) ∧
    ((∀ p a, r ≠ .setPort p none a) → f.body = requestBody r) ∧
    f.body.take 2 = (requestBody r).take 2 ∧ f.body.drop 10 = (requestBody r).drop 10 ∧
    f.body.length =
      (match r with
       | .identify | .portStatus | .indexStatus | .events | .stats | .openContainer | .snapshot | .format
       | .restart => 0
       | .lookup _ _ | .probe _ => 32
       | .ref _ _ | .release _ _ => 33
       | .commit _ _ _ => 50
       | .abandon _ _ => 40
       | .move _ _ _ _ _ => 44
       | .closeContainer _ | .reclaim _ | .containerStatus _ | .findEmpty _ | .cancel _ => 2
       | .batch b => 5 + (if b.kind = .release then 33 else 32) * b.items.length
       | .readSlot _ | .drop _ => 5
       | .restore _ => 51
       | .setNamespace _ _ _ => 3
       | .setPort _ _ _ => 11
       | .admitPort _ | .evict _ | .getParameter _ => 1
       | .setEventMask _ _ _ => 4
       | .setParameter _ _ => 5)) ∧
  ∀ r : Request,
    let number (n : Nat) : Prop := 1 ≤ n ∧ n ≤ 255
    let placement (offset length : Nat) : Prop := 1 ≤ length ∧ length ≤ 65536 ∧ offset ≤ 67108863
    let position (q : Position) : Prop := q.bucket < 2 ^ 32 ∧ q.index ≤ 7
    requestInRange r = true ↔
      (match r with
       | .ref _ n | .release _ n => number n
       | .commit _ _ l => placement l.offset.toNat l.length.toNat
       | .move _ src dst offset length => src < 65536 ∧ dst < 65536 ∧ placement offset length
       | .closeContainer c | .reclaim c | .containerStatus c | .findEmpty c => c < 65536
       | .batch b =>
         1 ≤ b.items.length ∧ b.items.length ≤ 128 ∧ (b.wait = true → b.kind = .lookup) ∧
           ∀ i ∈ b.items, if b.kind = .release then number i.n else i.n = 0
       | .readSlot q | .drop q => position q
       | .restore x =>
         position x.pos ∧ placement x.loc.offset.toNat x.loc.length.toNat ∧ x.ns.toNat ≤ 63 ∧
           (x.state = .stored ∧ 1 ≤ x.refcount.toNat ∧ x.refcount.toNat ≤ 65534 ∨
             x.state = .pinned ∧ x.refcount.toNat = 65535)
       | .setNamespace n _ _ => n ≤ 63
       | .setParameter q v =>
         (match q with
          | .claimWindowMs => 10 ≤ v ∧ v ≤ 10000
          | .sweepMode => v ≤ 2
          | .sweepRate => 1 ≤ v ∧ v ≤ 64
          | .graceS => v ≤ 1048575
          | .statsMode => v ≤ 1
          | .statsIntervalS => 1 ≤ v ∧ v ≤ 3600
          | .occupancyPct => 50 ≤ v ∧ v ≤ 99
          | .containersLowCount => v ≤ 65535
          | .lossWindowMs => 1 ≤ v ∧ v ≤ 15)
       | _ => True)

/-- Every step keeps the port units as the rules have them: attention line (log 40), empty DOWN port, queue of at most 32
distinct tags, queue and response list together at most 64, and link counts in range (R129, R143, R145, R147, R170). -/
def Obligations.StepKeepsPortUnits : Prop :=
  ∀ s t : State, PortsOk s → step s = .next t → PortsOk t

/-- Every step keeps index memory and the tables in their canonical form, so that equal contents are equal data, and every
counter between 0 and 2^48 - 1 (R160, R161). -/
def Obligations.StepKeepsTablesAndCounters : Prop :=
  (∀ s t : State, TablesOk s → step s = .next t → TablesOk t) ∧
  (∀ s t : State, CountersOk s → step s = .next t → CountersOk t)

/-- The invariants hold right after reset. -/
def Obligations.InvariantsHoldAtReset : Prop :=
  PortsOk State.reset ∧ TablesOk State.reset ∧ CountersOk State.reset
end

