-- ==== Sys2Proof/Laws/Frames.lean ====
section
/-! SUPPORT. Fields of frames read back: what each reader of a field gives on the bytes that its writer makes, and which bytes a field read came from. -/

namespace Sys2Proof.Machine

@[simp] theorem beBytes_length (n v : Nat) : (beBytes n v).length = n := by
  induction n with
  | zero => rfl
  | succ n ih => simp [beBytes, ih]

theorem beNat_cons (b : Byte) (l : List Byte) : beNat (b :: l) = b.toNat * 256 ^ l.length + beNat l := by
  have key : ∀ (l : List Byte) (a : Nat),
      l.foldl (fun acc b => acc * 256 + b.toNat) a = a * 256 ^ l.length + beNat l := by
    intro l
    induction l with
    | nil => intro a; simp [beNat]
    | cons b l ih =>
      intro a
      unfold beNat
      simp only [List.foldl_cons, List.length_cons]
      rw [ih, ih (0 * 256 + b.toNat)]
      ring
  unfold beNat
  rw [List.foldl_cons, key]
  simp [beNat]

/-- A number is read from its bytes up to their width (Conventions, Byte order). -/
theorem beNat_beBytes_mod (n v : Nat) : beNat (beBytes n v) = v % 256 ^ n := by
  induction n with
  | zero => simp [beBytes, beNat, Nat.mod_one]
  | succ n ih =>
    have e : v % 256 ^ (n + 1) = v % 256 ^ n + 256 ^ n * (v / 256 ^ n % 256) := by rw [pow_succ, Nat.mod_mul]
    have w : (BitVec.ofNat 8 (v / 256 ^ n)).toNat = v / 256 ^ n % 256 := BitVec.toNat_ofNat _ _
    rw [beBytes, beNat_cons, beBytes_length, ih, e, w, Nat.mul_comm, Nat.add_comm]

theorem beNat_beBytes (n v : Nat) (h : v < 256 ^ n) : beNat (beBytes n v) = v := by
  rw [beNat_beBytes_mod, Nat.mod_eq_of_lt h]

theorem takeNum_beBytes (n v : Nat) (rest : List Byte) (h : v < 256 ^ n) :
    takeNum n (beBytes n v ++ rest) = some (v, rest) := by
  unfold takeNum
  rw [if_pos (by simp), List.take_left' (beBytes_length n v), List.drop_left' (beBytes_length n v), beNat_beBytes n v h]

theorem takeNum_byte (b : Byte) (rest : List Byte) : takeNum 1 (b :: rest) = some (b.toNat, rest) := by
  simp [takeNum, beNat]

theorem takeFp_fpBytes (f : Fingerprint) (rest : List Byte) : takeFp (fpBytes f ++ rest) = some (f, rest) := by
  have h : f.toNat < 256 ^ 32 := lt_of_lt_of_eq f.isLt (by norm_num)
  have e : BitVec.ofNat 256 f.toNat = f := by rw [BitVec.ofNat_toNat, BitVec.setWidth_eq]
  unfold takeFp fpBytes
  rw [takeNum_beBytes _ _ _ h, Option.map_some, e]

theorem takeLocation_locationBytes (l : Location) (rest : List Byte) :
    takeLocation (locationBytes l ++ rest) = some (l, rest) := by
  unfold takeLocation locationBytes
  simp only [List.append_assoc]
  rw [takeNum_beBytes _ _ _ (by have := l.container.isLt; omega)]
  simp only [Option.bind_some]
  rw [takeNum_beBytes _ _ _ (by have := l.offset.isLt; omega)]
  simp only [Option.bind_some]
  rw [takeNum_beBytes _ _ _ (by have := l.length.isLt; omega)]
  simp

theorem takeToken_tokenBytes (t : Token) (rest : List Byte) : takeToken (tokenBytes t ++ rest) = some (t, rest) := by
  unfold takeToken tokenBytes
  simp only [List.append_assoc]
  rw [takeNum_beBytes _ _ _ (by have := t.startCount.isLt; omega)]
  simp only [Option.bind_some]
  rw [takeNum_beBytes _ _ _ (by have := t.claim.isLt; omega)]
  simp only [Option.bind_some]
  rw [takeNum_beBytes _ _ _ (by have := t.generation.isLt; omega)]
  simp

theorem takePosition_positionBytes (q : Position) (rest : List Byte) (h : q.bucket < 4294967296) (h2 : q.index ≤ 7) :
    takePosition (positionBytes q ++ rest) = some (q, rest) := by
  unfold takePosition positionBytes
  simp only [List.append_assoc]
  rw [takeNum_beBytes _ _ _ (by omega)]
  simp only [Option.bind_some]
  rw [takeNum_beBytes _ _ _ (by omega)]
  simp [guarded, h2]

theorem takeMap_mapBytes (m : BitVec 64) (rest : List Byte) : takeMap (mapBytes m ++ rest) = some (m, rest) := by
  have e : ((beBytes 8 m.toNat).reverse).length = 8 := by simp
  unfold takeMap mapBytes
  rw [if_pos (by simp), List.take_left' e, List.drop_left' e, mapOfBytes, List.reverse_reverse,
    beNat_beBytes 8 m.toNat (by have := m.isLt; omega)]
  simp

/-- The items of a batch are read back, where each is in the range of its kind (R109). -/
theorem takeItems_itemBytes (withN : Bool) (items : List BatchItem)
    (h : ∀ i ∈ items, if withN = true then 1 ≤ i.n ∧ i.n ≤ 255 else i.n = 0) :
    takeItems withN items.length (itemBytes withN items) = some items := by
  induction items with
  | nil => rfl
  | cons i l ih =>
    have hi := h i (by simp)
    have ih := ih (fun j hj => h j (by simp [hj]))
    unfold itemBytes at *
    simp only [List.flatMap_cons, List.length_cons, takeItems, List.append_assoc]
    rw [takeFp_fpBytes]
    simp only [Option.bind_some]
    cases withN
    · simp at *
      rw [ih]
      simp
      cases i
      simp_all
    · simp at *
      rw [takeNum_beBytes _ _ _ (by omega)]
      simp [guarded, hi.1, ih]

theorem itemBytes_length (withN : Bool) (items : List BatchItem) : (itemBytes withN items).length ≤ items.length * 33 := by
  unfold itemBytes
  induction items with
  | nil => simp
  | cons i l ih => cases withN <;> simp [fpBytes] at * <;> omega

/-! ## Fields as read: the bytes they stand for -/

theorem beNat_lt (l : List Byte) : beNat l < 256 ^ l.length := by
  induction l with
  | nil => simp [beNat]
  | cons b l ih =>
    rw [beNat_cons, List.length_cons, pow_succ]
    have : b.toNat < 256 := b.isLt
    have h2 : b.toNat * 256 ^ l.length + beNat l < (b.toNat + 1) * 256 ^ l.length := by rw [add_mul]; omega
    refine lt_of_lt_of_le h2 ?_
    rw [mul_comm (256 ^ l.length)]
    exact Nat.mul_le_mul_right _ this

theorem beBytes_add (n v k : Nat) : beBytes n (v + k * 256 ^ n) = beBytes n v := by
  induction n generalizing k with
  | zero => rfl
  | succ n ih =>
    have e : v + k * 256 ^ (n + 1) = v + (k * 256) * 256 ^ n := by rw [pow_succ]; ring
    rw [e, beBytes, beBytes, ih]
    congr 1
    rw [Nat.add_mul_div_right _ _ (by positivity)]
    apply BitVec.eq_of_toNat_eq
    simp only [BitVec.toNat_ofNat]
    omega

/-- The bytes of the number that bytes spell are those bytes. -/
theorem beBytes_beNat (l : List Byte) : beBytes l.length (beNat l) = l := by
  induction l with
  | nil => rfl
  | cons b l ih =>
    rw [List.length_cons, beBytes, beNat_cons]
    have h := beNat_lt l
    have e : (b.toNat * 256 ^ l.length + beNat l) / 256 ^ l.length = b.toNat := by
      rw [Nat.add_comm, Nat.add_mul_div_right _ _ (by positivity), Nat.div_eq_of_lt h, Nat.zero_add]
    rw [e, Nat.add_comm, beBytes_add, ih]
    simp

/-- A number read is the number its bytes spell, in its width. -/
theorem takeNum_inv {n : Nat} {b : List Byte} {r : Nat × List Byte} (h : takeNum n b = some r) :
    b = beBytes n r.1 ++ r.2 ∧ r.1 < 256 ^ n := by
  unfold takeNum at h
  split at h
  · next hn =>
    simp only [Option.some.injEq] at h
    subst h
    have hl : (b.take n).length = n := by simp [hn]
    have := beBytes_beNat (b.take n)
    have h2 := beNat_lt (b.take n)
    rw [hl] at this h2
    exact ⟨by rw [this, List.take_append_drop], h2⟩
  · simp at h

theorem atEnd_inv {α : Type} {rest : List Byte} {v w : α} (h : atEnd rest v = some w) : rest = [] ∧ v = w := by
  cases rest <;> simp_all [atEnd]

theorem guarded_inv {α : Type} {b : Bool} {v : Option α} {w : α} (h : guarded b v = some w) : b = true ∧ v = some w := by
  cases b <;> simp_all [guarded]

/-- A fingerprint read is spelled by its bytes. -/
theorem takeFp_inv {b : List Byte} {r : Fingerprint × List Byte} (h : takeFp b = some r) : b = fpBytes r.1 ++ r.2 := by
  unfold takeFp at h
  obtain ⟨x, hx, rfl⟩ := Option.map_eq_some_iff.mp h
  have := takeNum_inv hx
  unfold fpBytes
  rw [BitVec.toNat_ofNat, Nat.mod_eq_of_lt (lt_of_lt_of_eq this.2 (by norm_num))]
  exact this.1

/-- A location read is spelled by its bytes. -/
theorem takeLocation_inv {b : List Byte} {r : Location × List Byte} (h : takeLocation b = some r) :
    b = locationBytes r.1 ++ r.2 := by
  unfold takeLocation at h
  simp only [Option.bind_eq_some_iff, Option.map_eq_some_iff] at h
  obtain ⟨c, hc, o, ho, l, hl, rfl⟩ := h
  have hc := takeNum_inv hc
  have ho := takeNum_inv ho
  have hl := takeNum_inv hl
  unfold locationBytes
  simp only [BitVec.toNat_ofNat]
  rw [Nat.mod_eq_of_lt (lt_of_lt_of_eq hc.2 (by norm_num)), Nat.mod_eq_of_lt (lt_of_lt_of_eq ho.2 (by norm_num)),
    Nat.mod_eq_of_lt (lt_of_lt_of_eq hl.2 (by norm_num)), List.append_assoc, List.append_assoc, ← hl.1, ← ho.1]
  exact hc.1

/-- A token read is spelled by its bytes. -/
theorem takeToken_inv {b : List Byte} {r : Token × List Byte} (h : takeToken b = some r) : b = tokenBytes r.1 ++ r.2 := by
  unfold takeToken at h
  simp only [Option.bind_eq_some_iff, Option.map_eq_some_iff] at h
  obtain ⟨c, hc, o, ho, l, hl, rfl⟩ := h
  have hc := takeNum_inv hc
  have ho := takeNum_inv ho
  have hl := takeNum_inv hl
  unfold tokenBytes
  simp only [BitVec.toNat_ofNat]
  rw [Nat.mod_eq_of_lt (lt_of_lt_of_eq hc.2 (by norm_num)), Nat.mod_eq_of_lt (lt_of_lt_of_eq ho.2 (by norm_num)),
    Nat.mod_eq_of_lt (lt_of_lt_of_eq hl.2 (by norm_num)), List.append_assoc, List.append_assoc, ← hl.1, ← ho.1]
  exact hc.1

/-- A position read is spelled by its bytes, and in range. -/
theorem takePosition_inv {b : List Byte} {r : Position × List Byte} (h : takePosition b = some r) :
    b = positionBytes r.1 ++ r.2 ∧ r.1.bucket < 4294967296 ∧ r.1.index ≤ 7 := by
  unfold takePosition at h
  simp only [Option.bind_eq_some_iff] at h
  obtain ⟨c, hc, o, ho, hg⟩ := h
  have hc := takeNum_inv hc
  have ho := takeNum_inv ho
  obtain ⟨hi, hg⟩ := guarded_inv hg
  simp only [Option.some.injEq] at hg
  subst hg
  unfold positionBytes
  refine ⟨?_, lt_of_lt_of_eq hc.2 (by norm_num), by simpa using hi⟩
  rw [List.append_assoc, ← ho.1]
  exact hc.1

/-- A map read is spelled by its bytes. -/
theorem takeMap_inv {b : List Byte} {r : BitVec 64 × List Byte} (h : takeMap b = some r) : b = mapBytes r.1 ++ r.2 := by
  unfold takeMap at h
  split at h
  · next hn =>
    simp only [Option.some.injEq] at h
    subst h
    have hl : (b.take 8).length = 8 := by simp [hn]
    have h1 := beBytes_beNat (b.take 8).reverse
    have h2 := beNat_lt (b.take 8).reverse
    rw [List.length_reverse, hl] at h1 h2
    unfold mapBytes mapOfBytes
    dsimp only
    rw [BitVec.toNat_ofNat, Nat.mod_eq_of_lt (lt_of_lt_of_eq h2 (by norm_num)), h1, List.reverse_reverse,
      List.take_append_drop]
  · simp at h

/-- Items read are spelled by their bytes, and in range. -/
theorem takeItems_inv {withN : Bool} {n : Nat} {b : List Byte} {items : List BatchItem}
    (h : takeItems withN n b = some items) :
    items.length = n ∧ b = itemBytes withN items ∧
      ∀ i ∈ items, if withN = true then 1 ≤ i.n ∧ i.n ≤ 255 else i.n = 0 := by
  induction n generalizing b items with
  | zero =>
    unfold takeItems at h
    obtain ⟨rfl, rfl⟩ := atEnd_inv h
    simp [itemBytes]
  | succ n ih =>
    unfold takeItems at h
    obtain ⟨f, hf, h⟩ := Option.bind_eq_some_iff.mp h
    have hf := takeFp_inv hf
    cases withN
    · simp only [Bool.false_eq_true, if_false, Option.map_eq_some_iff] at h
      obtain ⟨l, hl, rfl⟩ := h
      obtain ⟨h1, h2, h3⟩ := ih hl
      refine ⟨by simp [h1], ?_, ?_⟩
      · rw [hf, h2]; simp [itemBytes]
      · intro i hi
        rcases List.mem_cons.mp hi with rfl | hi
        · simp
        · exact h3 i hi
    · simp only [if_true, Option.bind_eq_some_iff] at h
      obtain ⟨m, hm, h⟩ := h
      obtain ⟨hg, h⟩ := guarded_inv h
      obtain ⟨l, hl, rfl⟩ := Option.map_eq_some_iff.mp h
      have hm := takeNum_inv hm
      obtain ⟨h1, h2, h3⟩ := ih hl
      refine ⟨by simp [h1], ?_, ?_⟩
      · rw [hf, hm.1, h2]; simp [itemBytes]
      · intro i hi
        rcases List.mem_cons.mp hi with rfl | hi
        · have := hm.2; simp at hg ⊢; omega
        · exact h3 i hi

theorem beBytes_ofNat (v : Nat) : beBytes 1 v = [BitVec.ofNat 8 v] := by
  simp [beBytes]

theorem flagOfCode_inv {n : Nat} {v : Option Bool} (h : flagOfCode n = some v) : optCode flagCode v = BitVec.ofNat 8 n := by
  unfold flagOfCode at h
  split at h <;> simp at h <;> subst h <;> rfl

theorem edgeOfCode_inv {n : Nat} {v : Option EdgeMode} (h : edgeOfCode n = some v) : optCode edgeCode v = BitVec.ofNat 8 n := by
  unfold edgeOfCode at h
  split at h <;> simp at h <;> subst h <;> rfl

theorem nsStateOfCode_inv {n : Nat} {v : Option NsState} (h : nsStateOfCode n = some v) : optCode nsStateCode v = BitVec.ofNat 8 n := by
  unfold nsStateOfCode at h
  split at h <;> simp at h <;> subst h <;> rfl

theorem portOfNumber_inv {n : Nat} {v : Port} (h : portOfNumber n = some v) : portNumber v = n := by
  unfold portOfNumber at h
  split at h <;> simp at h <;> subst h <;> rfl

theorem targetOfCode_inv {n : Nat} {v : Option Port} (h : targetOfCode n = some v) :
    optCode (fun p => BitVec.ofNat 8 (portNumber p)) v = BitVec.ofNat 8 n := by
  unfold targetOfCode at h
  split at h
  · next hn => subst hn; simp at h; subst h; rfl
  · obtain ⟨p, hp, rfl⟩ := Option.map_eq_some_iff.mp h
    simp [optCode, portOfNumber_inv hp]

theorem paramOfCode_inv {n : Nat} {q : Param} (h : paramOfCode n = some q) (hn : n < 256) : paramCode q = BitVec.ofNat 8 n := by
  unfold paramOfCode at h
  have := List.find?_some h
  simp at this
  apply BitVec.eq_of_toNat_eq
  rw [this, BitVec.toNat_ofNat]; omega

/-- The state that a RESTORE may supply has the code read. -/
theorem restoreState_inv {c rc : Nat} {st : EntryState} (h : restoreState c rc = some st) :
    entryCode st = BitVec.ofNat 8 c ∧ restoreState (entryCode st).toNat rc = some st ∧ c < 256 := by
  have h' := h
  unfold restoreState at h
  split at h
  · next hc => simp at h; subst h; rw [hc.1] at h' ⊢; exact ⟨rfl, h', by omega⟩
  · split at h
    · next hc => simp at h; subst h; rw [hc.1] at h' ⊢; exact ⟨rfl, h', by omega⟩
    · simp at h

end Sys2Proof.Machine
end

