-- ==== Sys2Proof/Laws/State.lean ====
section
/-! SUPPORT. What each shared operation leaves unchanged: for each operation, the fields of State that it does not touch. -/

namespace Sys2Proof.Machine

@[simp] theorem doWhen_true (g : State → State) (s : State) : doWhen true g s = g s := rfl

@[simp] theorem doWhen_false (g : State → State) (s : State) : doWhen false g s = s := rfl

@[simp] theorem updPort_frame (p : Port) (g : PortUnit → PortUnit) (s : State) :
    (updPort p g s).pending = s.pending ∧ (updPort p g s).powered = s.powered ∧ (updPort p g s).ixc = s.ixc ∧
    (updPort p g s).clu = s.clu ∧ (updPort p g s).ctu = s.ctu ∧ (updPort p g s).bte = s.bte ∧
    (updPort p g s).swp = s.swp ∧ (updPort p g s).tmb = s.tmb ∧ (updPort p g s).nst = s.nst ∧
    (updPort p g s).stu = s.stu ∧ (updPort p g s).mif = s.mif ∧ (updPort p g s).params = s.params ∧
    (updPort p g s).mem = s.mem ∧ (updPort p g s).linkOut = s.linkOut := by
  exact ⟨rfl, rfl, rfl, rfl, rfl, rfl, rfl, rfl, rfl, rfl, rfl, rfl, rfl, rfl⟩

@[simp] theorem updPorts_frame (g : Port → PortUnit → PortUnit) (s : State) :
    (updPorts g s).pending = s.pending ∧ (updPorts g s).powered = s.powered ∧ (updPorts g s).ixc = s.ixc ∧
    (updPorts g s).clu = s.clu ∧ (updPorts g s).ctu = s.ctu ∧ (updPorts g s).bte = s.bte ∧
    (updPorts g s).swp = s.swp ∧ (updPorts g s).tmb = s.tmb ∧ (updPorts g s).nst = s.nst ∧
    (updPorts g s).stu = s.stu ∧ (updPorts g s).mif = s.mif ∧ (updPorts g s).params = s.params ∧
    (updPorts g s).mem = s.mem ∧ (updPorts g s).linkOut = s.linkOut := by
  exact ⟨rfl, rfl, rfl, rfl, rfl, rfl, rfl, rfl, rfl, rfl, rfl, rfl, rfl, rfl⟩

@[simp] theorem raiseTo_frame (p : Port) (k : EventKind) (s : State) :
    (raiseTo p k s).pending = s.pending ∧ (raiseTo p k s).powered = s.powered ∧ (raiseTo p k s).ixc = s.ixc ∧
    (raiseTo p k s).clu = s.clu ∧ (raiseTo p k s).ctu = s.ctu ∧ (raiseTo p k s).bte = s.bte ∧
    (raiseTo p k s).swp = s.swp ∧ (raiseTo p k s).tmb = s.tmb ∧ (raiseTo p k s).nst = s.nst ∧
    (raiseTo p k s).stu = s.stu ∧ (raiseTo p k s).mif = s.mif ∧ (raiseTo p k s).params = s.params ∧
    (raiseTo p k s).mem = s.mem ∧ (raiseTo p k s).linkOut = s.linkOut := by
  exact ⟨rfl, rfl, rfl, rfl, rfl, rfl, rfl, rfl, rfl, rfl, rfl, rfl, rfl, rfl⟩

@[simp] theorem raiseAll_frame (k : EventKind) (s : State) :
    (raiseAll k s).pending = s.pending ∧ (raiseAll k s).powered = s.powered ∧ (raiseAll k s).ixc = s.ixc ∧
    (raiseAll k s).clu = s.clu ∧ (raiseAll k s).ctu = s.ctu ∧ (raiseAll k s).bte = s.bte ∧
    (raiseAll k s).swp = s.swp ∧ (raiseAll k s).tmb = s.tmb ∧ (raiseAll k s).nst = s.nst ∧
    (raiseAll k s).stu = s.stu ∧ (raiseAll k s).mif = s.mif ∧ (raiseAll k s).params = s.params ∧
    (raiseAll k s).mem = s.mem ∧ (raiseAll k s).linkOut = s.linkOut := by
  exact ⟨rfl, rfl, rfl, rfl, rfl, rfl, rfl, rfl, rfl, rfl, rfl, rfl, rfl, rfl⟩

@[simp] theorem raiseOthers_frame (p : Port) (k : EventKind) (s : State) :
    (raiseOthers p k s).pending = s.pending ∧ (raiseOthers p k s).powered = s.powered ∧
    (raiseOthers p k s).ixc = s.ixc ∧ (raiseOthers p k s).clu = s.clu ∧ (raiseOthers p k s).ctu = s.ctu ∧
    (raiseOthers p k s).bte = s.bte ∧ (raiseOthers p k s).swp = s.swp ∧ (raiseOthers p k s).tmb = s.tmb ∧
    (raiseOthers p k s).nst = s.nst ∧ (raiseOthers p k s).stu = s.stu ∧ (raiseOthers p k s).mif = s.mif ∧
    (raiseOthers p k s).params = s.params ∧ (raiseOthers p k s).mem = s.mem ∧
    (raiseOthers p k s).linkOut = s.linkOut := by
  exact ⟨rfl, rfl, rfl, rfl, rfl, rfl, rfl, rfl, rfl, rfl, rfl, rfl, rfl, rfl⟩

@[simp] theorem updEntry_frame (p : Port) (tag : Tag) (g : QEntry → QEntry) (s : State) :
    (updEntry p tag g s).pending = s.pending ∧ (updEntry p tag g s).powered = s.powered ∧
    (updEntry p tag g s).ixc = s.ixc ∧ (updEntry p tag g s).clu = s.clu ∧ (updEntry p tag g s).ctu = s.ctu ∧
    (updEntry p tag g s).bte = s.bte ∧ (updEntry p tag g s).swp = s.swp ∧ (updEntry p tag g s).tmb = s.tmb ∧
    (updEntry p tag g s).nst = s.nst ∧ (updEntry p tag g s).stu = s.stu ∧ (updEntry p tag g s).mif = s.mif ∧
    (updEntry p tag g s).params = s.params ∧ (updEntry p tag g s).mem = s.mem ∧
    (updEntry p tag g s).linkOut = s.linkOut := by
  exact ⟨rfl, rfl, rfl, rfl, rfl, rfl, rfl, rfl, rfl, rfl, rfl, rfl, rfl, rfl⟩

@[simp] theorem markTaken_frame (p : Port) (tag : Tag) (s : State) :
    (markTaken p tag s).pending = s.pending ∧ (markTaken p tag s).powered = s.powered ∧
    (markTaken p tag s).ixc = s.ixc ∧ (markTaken p tag s).clu = s.clu ∧ (markTaken p tag s).ctu = s.ctu ∧
    (markTaken p tag s).bte = s.bte ∧ (markTaken p tag s).swp = s.swp ∧ (markTaken p tag s).tmb = s.tmb ∧
    (markTaken p tag s).nst = s.nst ∧ (markTaken p tag s).stu = s.stu ∧ (markTaken p tag s).mif = s.mif ∧
    (markTaken p tag s).params = s.params ∧ (markTaken p tag s).mem = s.mem ∧
    (markTaken p tag s).linkOut = s.linkOut := by
  exact ⟨rfl, rfl, rfl, rfl, rfl, rfl, rfl, rfl, rfl, rfl, rfl, rfl, rfl, rfl⟩

@[simp] theorem respond_frame (p : Port) (r : Response) (s : State) :
    (respond p r s).pending = s.pending ∧ (respond p r s).powered = s.powered ∧ (respond p r s).ixc = s.ixc ∧
    (respond p r s).clu = s.clu ∧ (respond p r s).ctu = s.ctu ∧ (respond p r s).bte = s.bte ∧
    (respond p r s).swp = s.swp ∧ (respond p r s).tmb = s.tmb ∧ (respond p r s).nst = s.nst ∧
    (respond p r s).stu = s.stu ∧ (respond p r s).mif = s.mif ∧ (respond p r s).params = s.params ∧
    (respond p r s).mem = s.mem ∧ (respond p r s).linkOut = s.linkOut := by
  exact ⟨rfl, rfl, rfl, rfl, rfl, rfl, rfl, rfl, rfl, rfl, rfl, rfl, rfl, rfl⟩

@[simp] theorem seeSymbols_frame (p : Port) (s : State) :
    (seeSymbols p s).pending = s.pending ∧ (seeSymbols p s).powered = s.powered ∧ (seeSymbols p s).ixc = s.ixc ∧
    (seeSymbols p s).clu = s.clu ∧ (seeSymbols p s).ctu = s.ctu ∧ (seeSymbols p s).bte = s.bte ∧
    (seeSymbols p s).swp = s.swp ∧ (seeSymbols p s).tmb = s.tmb ∧ (seeSymbols p s).nst = s.nst ∧
    (seeSymbols p s).stu = s.stu ∧ (seeSymbols p s).mif = s.mif ∧ (seeSymbols p s).params = s.params ∧
    (seeSymbols p s).mem = s.mem ∧ (seeSymbols p s).linkOut = s.linkOut := by
  exact ⟨rfl, rfl, rfl, rfl, rfl, rfl, rfl, rfl, rfl, rfl, rfl, rfl, rfl, rfl⟩

@[simp] theorem evalOccupancy_frame (s : State) :
    (evalOccupancy s).pending = s.pending ∧ (evalOccupancy s).powered = s.powered ∧ (evalOccupancy s).clu = s.clu ∧
    (evalOccupancy s).ctu = s.ctu ∧ (evalOccupancy s).bte = s.bte ∧ (evalOccupancy s).swp = s.swp ∧
    (evalOccupancy s).tmb = s.tmb ∧ (evalOccupancy s).nst = s.nst ∧ (evalOccupancy s).stu = s.stu ∧
    (evalOccupancy s).mif = s.mif ∧ (evalOccupancy s).params = s.params ∧ (evalOccupancy s).mem = s.mem ∧
    (evalOccupancy s).linkOut = s.linkOut := by
  unfold evalOccupancy
  repeat' split
  all_goals simp

@[simp] theorem setOccupancy_frame (n : Nat) (s : State) :
    (setOccupancy n s).pending = s.pending ∧ (setOccupancy n s).powered = s.powered ∧
    (setOccupancy n s).clu = s.clu ∧ (setOccupancy n s).ctu = s.ctu ∧ (setOccupancy n s).bte = s.bte ∧
    (setOccupancy n s).swp = s.swp ∧ (setOccupancy n s).tmb = s.tmb ∧ (setOccupancy n s).nst = s.nst ∧
    (setOccupancy n s).stu = s.stu ∧ (setOccupancy n s).mif = s.mif ∧ (setOccupancy n s).params = s.params ∧
    (setOccupancy n s).mem = s.mem ∧ (setOccupancy n s).linkOut = s.linkOut := by
  simp [setOccupancy]

@[simp] theorem evalContainersLow_frame (s : State) :
    (evalContainersLow s).pending = s.pending ∧ (evalContainersLow s).powered = s.powered ∧
    (evalContainersLow s).ixc = s.ixc ∧ (evalContainersLow s).clu = s.clu ∧ (evalContainersLow s).bte = s.bte ∧
    (evalContainersLow s).swp = s.swp ∧ (evalContainersLow s).tmb = s.tmb ∧ (evalContainersLow s).nst = s.nst ∧
    (evalContainersLow s).stu = s.stu ∧ (evalContainersLow s).mif = s.mif ∧
    (evalContainersLow s).params = s.params ∧ (evalContainersLow s).mem = s.mem ∧
    (evalContainersLow s).linkOut = s.linkOut := by
  unfold evalContainersLow
  repeat' split
  all_goals simp

@[simp] theorem countOne_frame (k n : Nat) (s : State) :
    (countOne k n s).pending = s.pending ∧ (countOne k n s).powered = s.powered ∧ (countOne k n s).ixc = s.ixc ∧
    (countOne k n s).clu = s.clu ∧ (countOne k n s).ctu = s.ctu ∧ (countOne k n s).bte = s.bte ∧
    (countOne k n s).swp = s.swp ∧ (countOne k n s).tmb = s.tmb ∧ (countOne k n s).nst = s.nst ∧
    (countOne k n s).mif = s.mif ∧ (countOne k n s).params = s.params ∧ (countOne k n s).mem = s.mem ∧
    (countOne k n s).linkOut = s.linkOut := by
  unfold countOne
  dsimp only
  repeat' split
  all_goals simp

@[simp] theorem countNs_frame (ns : Nat) (c : NsCounter) (n : Nat) (s : State) :
    (countNs ns c n s).pending = s.pending ∧ (countNs ns c n s).powered = s.powered ∧
    (countNs ns c n s).ixc = s.ixc ∧ (countNs ns c n s).clu = s.clu ∧ (countNs ns c n s).ctu = s.ctu ∧
    (countNs ns c n s).bte = s.bte ∧ (countNs ns c n s).swp = s.swp ∧ (countNs ns c n s).tmb = s.tmb ∧
    (countNs ns c n s).nst = s.nst ∧ (countNs ns c n s).mif = s.mif ∧ (countNs ns c n s).params = s.params ∧
    (countNs ns c n s).mem = s.mem ∧ (countNs ns c n s).linkOut = s.linkOut := by
  unfold countNs
  repeat' split
  all_goals simp

@[simp] theorem countPort_frame (p : Port) (c : PortCounter) (n : Nat) (s : State) :
    (countPort p c n s).pending = s.pending ∧ (countPort p c n s).powered = s.powered ∧
    (countPort p c n s).ixc = s.ixc ∧ (countPort p c n s).clu = s.clu ∧ (countPort p c n s).ctu = s.ctu ∧
    (countPort p c n s).bte = s.bte ∧ (countPort p c n s).swp = s.swp ∧ (countPort p c n s).tmb = s.tmb ∧
    (countPort p c n s).nst = s.nst ∧ (countPort p c n s).mif = s.mif ∧ (countPort p c n s).params = s.params ∧
    (countPort p c n s).mem = s.mem ∧ (countPort p c n s).linkOut = s.linkOut := by
  simp [countPort]

@[simp] theorem takeSnapshot_frame (s : State) :
    (takeSnapshot s).pending = s.pending ∧ (takeSnapshot s).powered = s.powered ∧ (takeSnapshot s).ixc = s.ixc ∧
    (takeSnapshot s).clu = s.clu ∧ (takeSnapshot s).ctu = s.ctu ∧ (takeSnapshot s).bte = s.bte ∧
    (takeSnapshot s).swp = s.swp ∧ (takeSnapshot s).tmb = s.tmb ∧ (takeSnapshot s).nst = s.nst ∧
    (takeSnapshot s).mif = s.mif ∧ (takeSnapshot s).params = s.params ∧ (takeSnapshot s).mem = s.mem ∧
    (takeSnapshot s).linkOut = s.linkOut := by
  exact ⟨rfl, rfl, rfl, rfl, rfl, rfl, rfl, rfl, rfl, rfl, rfl, rfl, rfl⟩

@[simp] theorem answer_frame (p : Port) (tag : Tag) (mark : Session) (a : Answer) (s : State) :
    (answer p tag mark a s).pending = s.pending ∧ (answer p tag mark a s).powered = s.powered ∧
    (answer p tag mark a s).ixc = s.ixc ∧ (answer p tag mark a s).clu = s.clu ∧
    (answer p tag mark a s).ctu = s.ctu ∧ (answer p tag mark a s).bte = s.bte ∧
    (answer p tag mark a s).swp = s.swp ∧ (answer p tag mark a s).tmb = s.tmb ∧
    (answer p tag mark a s).nst = s.nst ∧ (answer p tag mark a s).stu = s.stu ∧
    (answer p tag mark a s).mif = s.mif ∧ (answer p tag mark a s).params = s.params ∧
    (answer p tag mark a s).mem = s.mem ∧ (answer p tag mark a s).linkOut = s.linkOut := by
  unfold answer
  repeat' split
  all_goals simp

@[simp] theorem handOutcome_frame (k : Kind) (p : Port) (tag : Tag) (s : State) :
    (handOutcome k p tag s).pending = s.pending ∧ (handOutcome k p tag s).powered = s.powered ∧
    (handOutcome k p tag s).ixc = s.ixc ∧ (handOutcome k p tag s).clu = s.clu ∧
    (handOutcome k p tag s).bte = s.bte ∧ (handOutcome k p tag s).swp = s.swp ∧
    (handOutcome k p tag s).tmb = s.tmb ∧ (handOutcome k p tag s).nst = s.nst ∧
    (handOutcome k p tag s).stu = s.stu ∧ (handOutcome k p tag s).mif = s.mif ∧
    (handOutcome k p tag s).params = s.params ∧ (handOutcome k p tag s).mem = s.mem ∧
    (handOutcome k p tag s).linkOut = s.linkOut := by
  unfold handOutcome
  split <;> simp

@[simp] theorem answerEntry_frame (p : Port) (e : QEntry) (a : Answer) (s : State) :
    (answerEntry p e a s).pending = s.pending ∧ (answerEntry p e a s).powered = s.powered ∧
    (answerEntry p e a s).ixc = s.ixc ∧ (answerEntry p e a s).clu = s.clu ∧ (answerEntry p e a s).ctu = s.ctu ∧
    (answerEntry p e a s).bte = s.bte ∧ (answerEntry p e a s).swp = s.swp ∧ (answerEntry p e a s).tmb = s.tmb ∧
    (answerEntry p e a s).nst = s.nst ∧ (answerEntry p e a s).stu = s.stu ∧ (answerEntry p e a s).mif = s.mif ∧
    (answerEntry p e a s).params = s.params ∧ (answerEntry p e a s).mem = s.mem ∧
    (answerEntry p e a s).linkOut = s.linkOut := by
  simp [answerEntry]

@[simp] theorem writeParam_frame (q : Param) (v : Nat) (s : State) :
    (writeParam q v s).pending = s.pending ∧ (writeParam q v s).powered = s.powered ∧
    (writeParam q v s).ports = s.ports ∧ (writeParam q v s).ixc = s.ixc ∧ (writeParam q v s).clu = s.clu ∧
    (writeParam q v s).ctu = s.ctu ∧ (writeParam q v s).bte = s.bte ∧ (writeParam q v s).swp = s.swp ∧
    (writeParam q v s).tmb = s.tmb ∧ (writeParam q v s).nst = s.nst ∧ (writeParam q v s).stu = s.stu ∧
    (writeParam q v s).mif = s.mif ∧ (writeParam q v s).params = s.params ∧
    (writeParam q v s).linkOut = s.linkOut := by
  exact ⟨rfl, rfl, rfl, rfl, rfl, rfl, rfl, rfl, rfl, rfl, rfl, rfl, rfl, rfl⟩

@[simp] theorem forceParam_frame (q : Param) (v : Nat) (s : State) :
    (forceParam q v s).pending = s.pending ∧ (forceParam q v s).powered = s.powered ∧
    (forceParam q v s).ports = s.ports ∧ (forceParam q v s).ixc = s.ixc ∧ (forceParam q v s).clu = s.clu ∧
    (forceParam q v s).ctu = s.ctu ∧ (forceParam q v s).bte = s.bte ∧ (forceParam q v s).swp = s.swp ∧
    (forceParam q v s).tmb = s.tmb ∧ (forceParam q v s).nst = s.nst ∧ (forceParam q v s).stu = s.stu ∧
    (forceParam q v s).mif = s.mif ∧ (forceParam q v s).mem = s.mem ∧ (forceParam q v s).linkOut = s.linkOut := by
  exact ⟨rfl, rfl, rfl, rfl, rfl, rfl, rfl, rfl, rfl, rfl, rfl, rfl, rfl, rfl⟩

@[simp] theorem setChanges_frame (l : List ParamChange) (s : State) :
    (setChanges l s).pending = s.pending ∧ (setChanges l s).powered = s.powered ∧ (setChanges l s).ports = s.ports ∧
    (setChanges l s).ixc = s.ixc ∧ (setChanges l s).clu = s.clu ∧ (setChanges l s).ctu = s.ctu ∧
    (setChanges l s).bte = s.bte ∧ (setChanges l s).swp = s.swp ∧ (setChanges l s).tmb = s.tmb ∧
    (setChanges l s).nst = s.nst ∧ (setChanges l s).stu = s.stu ∧ (setChanges l s).params = s.params ∧
    (setChanges l s).mem = s.mem ∧ (setChanges l s).linkOut = s.linkOut := by
  exact ⟨rfl, rfl, rfl, rfl, rfl, rfl, rfl, rfl, rfl, rfl, rfl, rfl, rfl, rfl⟩

@[simp] theorem applyParam_frame (q : Param) (s : State) :
    (applyParam q s).pending = s.pending ∧ (applyParam q s).powered = s.powered ∧ (applyParam q s).clu = s.clu ∧
    (applyParam q s).bte = s.bte ∧ (applyParam q s).tmb = s.tmb ∧ (applyParam q s).nst = s.nst ∧
    (applyParam q s).mif = s.mif ∧ (applyParam q s).params = s.params ∧ (applyParam q s).mem = s.mem ∧
    (applyParam q s).linkOut = s.linkOut := by
  unfold applyParam retimed
  repeat' split
  all_goals simp

@[simp] theorem changeTaken_frame (c : ParamChange) (s : State) :
    (changeTaken c s).pending = s.pending ∧ (changeTaken c s).powered = s.powered ∧ (changeTaken c s).clu = s.clu ∧
    (changeTaken c s).bte = s.bte ∧ (changeTaken c s).tmb = s.tmb ∧ (changeTaken c s).nst = s.nst ∧
    (changeTaken c s).mif = s.mif ∧ (changeTaken c s).mem = s.mem ∧ (changeTaken c s).linkOut = s.linkOut := by
  simp [changeTaken]

@[simp] theorem ownChange_frame (p : Port) (q : Param) (s : State) :
    (ownChange p q s).pending = s.pending ∧ (ownChange p q s).powered = s.powered ∧ (ownChange p q s).clu = s.clu ∧
    (ownChange p q s).bte = s.bte ∧ (ownChange p q s).tmb = s.tmb ∧ (ownChange p q s).nst = s.nst ∧
    (ownChange p q s).mem = s.mem ∧ (ownChange p q s).linkOut = s.linkOut := by
  unfold ownChange
  repeat' split
  all_goals simp

@[simp] theorem unitChange_frame (p u : Port) (s : State) :
    (unitChange p u s).pending = s.pending ∧ (unitChange p u s).powered = s.powered ∧ (unitChange p u s).clu = s.clu ∧
    (unitChange p u s).bte = s.bte ∧ (unitChange p u s).tmb = s.tmb ∧ (unitChange p u s).nst = s.nst ∧
    (unitChange p u s).mem = s.mem ∧ (unitChange p u s).linkOut = s.linkOut := by
  unfold unitChange
  repeat' split
  all_goals simp

@[simp] theorem handChange_frame (p : Port) (e : QEntry) (s : State) :
    (handChange p e s).pending = s.pending ∧ (handChange p e s).powered = s.powered ∧ (handChange p e s).ixc = s.ixc ∧
    (handChange p e s).clu = s.clu ∧ (handChange p e s).ctu = s.ctu ∧ (handChange p e s).bte = s.bte ∧
    (handChange p e s).swp = s.swp ∧ (handChange p e s).tmb = s.tmb ∧ (handChange p e s).nst = s.nst ∧
    (handChange p e s).stu = s.stu ∧ (handChange p e s).params = s.params ∧
    (handChange p e s).linkOut = s.linkOut := by
  unfold handChange
  split <;> simp

@[simp] theorem slotPut_frame (n : Nat) (im : SlotImage) (s : State) :
    (slotPut n im s).pending = s.pending ∧ (slotPut n im s).powered = s.powered ∧
    (slotPut n im s).ports = s.ports ∧ (slotPut n im s).ixc = s.ixc ∧ (slotPut n im s).clu = s.clu ∧
    (slotPut n im s).ctu = s.ctu ∧ (slotPut n im s).bte = s.bte ∧ (slotPut n im s).swp = s.swp ∧
    (slotPut n im s).tmb = s.tmb ∧ (slotPut n im s).nst = s.nst ∧ (slotPut n im s).stu = s.stu ∧
    (slotPut n im s).mif = s.mif ∧ (slotPut n im s).params = s.params ∧ (slotPut n im s).linkOut = s.linkOut := by
  exact ⟨rfl, rfl, rfl, rfl, rfl, rfl, rfl, rfl, rfl, rfl, rfl, rfl, rfl, rfl⟩

@[simp] theorem repairUnclaimed_frame (n : Nat) (s : State) :
    (repairUnclaimed n s).pending = s.pending ∧ (repairUnclaimed n s).powered = s.powered ∧
    (repairUnclaimed n s).clu = s.clu ∧ (repairUnclaimed n s).ctu = s.ctu ∧ (repairUnclaimed n s).bte = s.bte ∧
    (repairUnclaimed n s).swp = s.swp ∧ (repairUnclaimed n s).tmb = s.tmb ∧ (repairUnclaimed n s).nst = s.nst ∧
    (repairUnclaimed n s).stu = s.stu ∧ (repairUnclaimed n s).mif = s.mif ∧
    (repairUnclaimed n s).params = s.params ∧ (repairUnclaimed n s).linkOut = s.linkOut := by
  unfold repairUnclaimed
  dsimp only
  repeat' split
  all_goals simp

@[simp] theorem verifySlot_frame (n : Nat) (s : State) :
    (verifySlot n s).pending = s.pending ∧ (verifySlot n s).powered = s.powered ∧ (verifySlot n s).clu = s.clu ∧
    (verifySlot n s).ctu = s.ctu ∧ (verifySlot n s).bte = s.bte ∧ (verifySlot n s).swp = s.swp ∧
    (verifySlot n s).tmb = s.tmb ∧ (verifySlot n s).nst = s.nst ∧ (verifySlot n s).stu = s.stu ∧
    (verifySlot n s).mif = s.mif ∧ (verifySlot n s).params = s.params ∧ (verifySlot n s).linkOut = s.linkOut := by
  unfold verifySlot
  repeat' split
  all_goals simp

@[simp] theorem claimPut_frame (n : Nat) (r : ClaimRec) (s : State) :
    (claimPut n r s).pending = s.pending ∧ (claimPut n r s).powered = s.powered ∧
    (claimPut n r s).ports = s.ports ∧ (claimPut n r s).ixc = s.ixc ∧ (claimPut n r s).ctu = s.ctu ∧
    (claimPut n r s).bte = s.bte ∧ (claimPut n r s).swp = s.swp ∧ (claimPut n r s).tmb = s.tmb ∧
    (claimPut n r s).nst = s.nst ∧ (claimPut n r s).stu = s.stu ∧ (claimPut n r s).mif = s.mif ∧
    (claimPut n r s).params = s.params ∧ (claimPut n r s).mem = s.mem ∧ (claimPut n r s).linkOut = s.linkOut := by
  exact ⟨rfl, rfl, rfl, rfl, rfl, rfl, rfl, rfl, rfl, rfl, rfl, rfl, rfl, rfl⟩

@[simp] theorem parkWaiter_frame (n : Nat) (w : Waiter) (s : State) :
    (parkWaiter n w s).pending = s.pending ∧ (parkWaiter n w s).powered = s.powered ∧
    (parkWaiter n w s).ports = s.ports ∧ (parkWaiter n w s).ixc = s.ixc ∧ (parkWaiter n w s).ctu = s.ctu ∧
    (parkWaiter n w s).bte = s.bte ∧ (parkWaiter n w s).swp = s.swp ∧ (parkWaiter n w s).tmb = s.tmb ∧
    (parkWaiter n w s).nst = s.nst ∧ (parkWaiter n w s).stu = s.stu ∧ (parkWaiter n w s).mif = s.mif ∧
    (parkWaiter n w s).params = s.params ∧ (parkWaiter n w s).mem = s.mem ∧
    (parkWaiter n w s).linkOut = s.linkOut := by
  exact ⟨rfl, rfl, rfl, rfl, rfl, rfl, rfl, rfl, rfl, rfl, rfl, rfl, rfl, rfl⟩

@[simp] theorem sendBte_frame (m : BteMessage) (s : State) :
    (sendBte m s).pending = s.pending ∧ (sendBte m s).powered = s.powered ∧ (sendBte m s).ports = s.ports ∧
    (sendBte m s).ixc = s.ixc ∧ (sendBte m s).clu = s.clu ∧ (sendBte m s).ctu = s.ctu ∧ (sendBte m s).swp = s.swp ∧
    (sendBte m s).tmb = s.tmb ∧ (sendBte m s).nst = s.nst ∧ (sendBte m s).stu = s.stu ∧ (sendBte m s).mif = s.mif ∧
    (sendBte m s).params = s.params ∧ (sendBte m s).mem = s.mem ∧ (sendBte m s).linkOut = s.linkOut := by
  exact ⟨rfl, rfl, rfl, rfl, rfl, rfl, rfl, rfl, rfl, rfl, rfl, rfl, rfl, rfl⟩

@[simp] theorem answerWaiter_frame (w : Waiter) (o : IndexOutcome) (s : State) :
    (answerWaiter w o s).pending = s.pending ∧ (answerWaiter w o s).powered = s.powered ∧
    (answerWaiter w o s).ixc = s.ixc ∧ (answerWaiter w o s).clu = s.clu ∧ (answerWaiter w o s).ctu = s.ctu ∧
    (answerWaiter w o s).swp = s.swp ∧ (answerWaiter w o s).tmb = s.tmb ∧ (answerWaiter w o s).nst = s.nst ∧
    (answerWaiter w o s).stu = s.stu ∧ (answerWaiter w o s).mif = s.mif ∧ (answerWaiter w o s).params = s.params ∧
    (answerWaiter w o s).mem = s.mem ∧ (answerWaiter w o s).linkOut = s.linkOut := by
  unfold answerWaiter
  repeat' split
  all_goals simp

@[simp] theorem handOver_frame (n : Nat) (w : Waiter) (rest : List Waiter) (s : State) :
    (handOver n w rest s).pending = s.pending ∧ (handOver n w rest s).powered = s.powered ∧
    (handOver n w rest s).ixc = s.ixc ∧ (handOver n w rest s).ctu = s.ctu ∧ (handOver n w rest s).swp = s.swp ∧
    (handOver n w rest s).tmb = s.tmb ∧ (handOver n w rest s).nst = s.nst ∧ (handOver n w rest s).mif = s.mif ∧
    (handOver n w rest s).params = s.params ∧ (handOver n w rest s).mem = s.mem ∧
    (handOver n w rest s).linkOut = s.linkOut := by
  simp [handOver]

@[simp] theorem closeClaim_frame (n : Nat) (s : State) :
    (closeClaim n s).pending = s.pending ∧ (closeClaim n s).powered = s.powered ∧
    (closeClaim n s).ports = s.ports ∧ (closeClaim n s).ixc = s.ixc ∧ (closeClaim n s).ctu = s.ctu ∧
    (closeClaim n s).bte = s.bte ∧ (closeClaim n s).swp = s.swp ∧ (closeClaim n s).tmb = s.tmb ∧
    (closeClaim n s).nst = s.nst ∧ (closeClaim n s).stu = s.stu ∧ (closeClaim n s).mif = s.mif ∧
    (closeClaim n s).params = s.params ∧ (closeClaim n s).mem = s.mem ∧ (closeClaim n s).linkOut = s.linkOut := by
  exact ⟨rfl, rfl, rfl, rfl, rfl, rfl, rfl, rfl, rfl, rfl, rfl, rfl, rfl, rfl⟩

@[simp] theorem releaseClaim_frame (n : Nat) (s : State) :
    (releaseClaim n s).pending = s.pending ∧ (releaseClaim n s).powered = s.powered ∧
    (releaseClaim n s).ixc = s.ixc ∧ (releaseClaim n s).ctu = s.ctu ∧ (releaseClaim n s).swp = s.swp ∧
    (releaseClaim n s).tmb = s.tmb ∧ (releaseClaim n s).nst = s.nst ∧ (releaseClaim n s).mif = s.mif ∧
    (releaseClaim n s).params = s.params ∧ (releaseClaim n s).mem = s.mem ∧
    (releaseClaim n s).linkOut = s.linkOut := by
  unfold releaseClaim
  repeat' split
  all_goals simp

@[simp] theorem expireClaim_frame (n : Nat) (s : State) :
    (expireClaim n s).pending = s.pending ∧ (expireClaim n s).powered = s.powered ∧ (expireClaim n s).ixc = s.ixc ∧
    (expireClaim n s).ctu = s.ctu ∧ (expireClaim n s).swp = s.swp ∧ (expireClaim n s).tmb = s.tmb ∧
    (expireClaim n s).nst = s.nst ∧ (expireClaim n s).mif = s.mif ∧ (expireClaim n s).params = s.params ∧
    (expireClaim n s).mem = s.mem ∧ (expireClaim n s).linkOut = s.linkOut := by
  unfold expireClaim
  repeat' split
  all_goals simp

@[simp] theorem removeWaiters_frame (gone : Waiter → Bool) (s : State) :
    (removeWaiters gone s).pending = s.pending ∧ (removeWaiters gone s).powered = s.powered ∧
    (removeWaiters gone s).ports = s.ports ∧ (removeWaiters gone s).ixc = s.ixc ∧
    (removeWaiters gone s).ctu = s.ctu ∧ (removeWaiters gone s).bte = s.bte ∧ (removeWaiters gone s).swp = s.swp ∧
    (removeWaiters gone s).tmb = s.tmb ∧ (removeWaiters gone s).nst = s.nst ∧ (removeWaiters gone s).stu = s.stu ∧
    (removeWaiters gone s).mif = s.mif ∧ (removeWaiters gone s).params = s.params ∧
    (removeWaiters gone s).mem = s.mem ∧ (removeWaiters gone s).linkOut = s.linkOut := by
  exact ⟨rfl, rfl, rfl, rfl, rfl, rfl, rfl, rfl, rfl, rfl, rfl, rfl, rfl, rfl⟩

@[simp] theorem containerPut_frame (c : Nat) (r : ContainerRec) (s : State) :
    (containerPut c r s).pending = s.pending ∧ (containerPut c r s).powered = s.powered ∧
    (containerPut c r s).ports = s.ports ∧ (containerPut c r s).ixc = s.ixc ∧ (containerPut c r s).clu = s.clu ∧
    (containerPut c r s).ctu = s.ctu ∧ (containerPut c r s).bte = s.bte ∧ (containerPut c r s).swp = s.swp ∧
    (containerPut c r s).tmb = s.tmb ∧ (containerPut c r s).nst = s.nst ∧ (containerPut c r s).stu = s.stu ∧
    (containerPut c r s).mif = s.mif ∧ (containerPut c r s).params = s.params ∧
    (containerPut c r s).linkOut = s.linkOut := by
  exact ⟨rfl, rfl, rfl, rfl, rfl, rfl, rfl, rfl, rfl, rfl, rfl, rfl, rfl, rfl⟩

@[simp] theorem placeChunk_frame (c offset length : Nat) (s : State) :
    (placeChunk c offset length s).pending = s.pending ∧ (placeChunk c offset length s).powered = s.powered ∧
    (placeChunk c offset length s).ports = s.ports ∧ (placeChunk c offset length s).ixc = s.ixc ∧
    (placeChunk c offset length s).clu = s.clu ∧ (placeChunk c offset length s).ctu = s.ctu ∧
    (placeChunk c offset length s).bte = s.bte ∧ (placeChunk c offset length s).swp = s.swp ∧
    (placeChunk c offset length s).tmb = s.tmb ∧ (placeChunk c offset length s).nst = s.nst ∧
    (placeChunk c offset length s).stu = s.stu ∧ (placeChunk c offset length s).mif = s.mif ∧
    (placeChunk c offset length s).params = s.params ∧ (placeChunk c offset length s).linkOut = s.linkOut := by
  exact ⟨rfl, rfl, rfl, rfl, rfl, rfl, rfl, rfl, rfl, rfl, rfl, rfl, rfl, rfl⟩

@[simp] theorem departEntry_frame (c length : Nat) (s : State) :
    (departEntry c length s).pending = s.pending ∧ (departEntry c length s).powered = s.powered ∧
    (departEntry c length s).ports = s.ports ∧ (departEntry c length s).ixc = s.ixc ∧
    (departEntry c length s).clu = s.clu ∧ (departEntry c length s).ctu = s.ctu ∧
    (departEntry c length s).bte = s.bte ∧ (departEntry c length s).swp = s.swp ∧
    (departEntry c length s).tmb = s.tmb ∧ (departEntry c length s).nst = s.nst ∧
    (departEntry c length s).stu = s.stu ∧ (departEntry c length s).mif = s.mif ∧
    (departEntry c length s).params = s.params ∧ (departEntry c length s).linkOut = s.linkOut := by
  exact ⟨rfl, rfl, rfl, rfl, rfl, rfl, rfl, rfl, rfl, rfl, rfl, rfl, rfl, rfl⟩

@[simp] theorem departLocation_frame (l : Location) (s : State) :
    (departLocation l s).pending = s.pending ∧ (departLocation l s).powered = s.powered ∧
    (departLocation l s).ports = s.ports ∧ (departLocation l s).ixc = s.ixc ∧ (departLocation l s).clu = s.clu ∧
    (departLocation l s).ctu = s.ctu ∧ (departLocation l s).bte = s.bte ∧ (departLocation l s).swp = s.swp ∧
    (departLocation l s).tmb = s.tmb ∧ (departLocation l s).nst = s.nst ∧ (departLocation l s).stu = s.stu ∧
    (departLocation l s).mif = s.mif ∧ (departLocation l s).params = s.params ∧
    (departLocation l s).linkOut = s.linkOut := by
  exact ⟨rfl, rfl, rfl, rfl, rfl, rfl, rfl, rfl, rfl, rfl, rfl, rfl, rfl, rfl⟩

@[simp] theorem gainEntry_frame (l : Location) (s : State) :
    (gainEntry l s).pending = s.pending ∧ (gainEntry l s).powered = s.powered ∧ (gainEntry l s).ports = s.ports ∧
    (gainEntry l s).ixc = s.ixc ∧ (gainEntry l s).clu = s.clu ∧ (gainEntry l s).ctu = s.ctu ∧
    (gainEntry l s).bte = s.bte ∧ (gainEntry l s).swp = s.swp ∧ (gainEntry l s).tmb = s.tmb ∧
    (gainEntry l s).nst = s.nst ∧ (gainEntry l s).stu = s.stu ∧ (gainEntry l s).mif = s.mif ∧
    (gainEntry l s).params = s.params ∧ (gainEntry l s).linkOut = s.linkOut := by
  exact ⟨rfl, rfl, rfl, rfl, rfl, rfl, rfl, rfl, rfl, rfl, rfl, rfl, rfl, rfl⟩

@[simp] theorem transferEntry_frame (recorded restored : Location) (s : State) :
    (transferEntry recorded restored s).pending = s.pending ∧
    (transferEntry recorded restored s).powered = s.powered ∧ (transferEntry recorded restored s).ports = s.ports ∧
    (transferEntry recorded restored s).ixc = s.ixc ∧ (transferEntry recorded restored s).clu = s.clu ∧
    (transferEntry recorded restored s).ctu = s.ctu ∧ (transferEntry recorded restored s).bte = s.bte ∧
    (transferEntry recorded restored s).swp = s.swp ∧ (transferEntry recorded restored s).tmb = s.tmb ∧
    (transferEntry recorded restored s).nst = s.nst ∧ (transferEntry recorded restored s).stu = s.stu ∧
    (transferEntry recorded restored s).mif = s.mif ∧ (transferEntry recorded restored s).params = s.params ∧
    (transferEntry recorded restored s).linkOut = s.linkOut := by
  exact ⟨rfl, rfl, rfl, rfl, rfl, rfl, rfl, rfl, rfl, rfl, rfl, rfl, rfl, rfl⟩

@[simp] theorem updMem_frame (g : IndexMemory → IndexMemory) (s : State) :
    (updMem g s).pending = s.pending ∧ (updMem g s).powered = s.powered ∧ (updMem g s).ports = s.ports ∧
    (updMem g s).ixc = s.ixc ∧ (updMem g s).clu = s.clu ∧ (updMem g s).ctu = s.ctu ∧ (updMem g s).bte = s.bte ∧
    (updMem g s).swp = s.swp ∧ (updMem g s).tmb = s.tmb ∧ (updMem g s).nst = s.nst ∧ (updMem g s).stu = s.stu ∧
    (updMem g s).mif = s.mif ∧ (updMem g s).params = s.params ∧ (updMem g s).linkOut = s.linkOut := by
  exact ⟨rfl, rfl, rfl, rfl, rfl, rfl, rfl, rfl, rfl, rfl, rfl, rfl, rfl, rfl⟩

@[simp] theorem enterOnline_frame (p : Port) (s : State) :
    (enterOnline p s).pending = s.pending ∧ (enterOnline p s).powered = s.powered ∧ (enterOnline p s).ixc = s.ixc ∧
    (enterOnline p s).clu = s.clu ∧ (enterOnline p s).ctu = s.ctu ∧ (enterOnline p s).bte = s.bte ∧
    (enterOnline p s).swp = s.swp ∧ (enterOnline p s).tmb = s.tmb ∧ (enterOnline p s).nst = s.nst ∧
    (enterOnline p s).stu = s.stu ∧ (enterOnline p s).mif = s.mif ∧ (enterOnline p s).params = s.params ∧
    (enterOnline p s).mem = s.mem ∧ (enterOnline p s).linkOut = s.linkOut := by
  exact ⟨rfl, rfl, rfl, rfl, rfl, rfl, rfl, rfl, rfl, rfl, rfl, rfl, rfl, rfl⟩

@[simp] theorem evalAdmission_frame (p : Port) (s : State) :
    (evalAdmission p s).pending = s.pending ∧ (evalAdmission p s).powered = s.powered ∧
    (evalAdmission p s).ixc = s.ixc ∧ (evalAdmission p s).clu = s.clu ∧ (evalAdmission p s).ctu = s.ctu ∧
    (evalAdmission p s).bte = s.bte ∧ (evalAdmission p s).swp = s.swp ∧ (evalAdmission p s).tmb = s.tmb ∧
    (evalAdmission p s).nst = s.nst ∧ (evalAdmission p s).stu = s.stu ∧ (evalAdmission p s).mif = s.mif ∧
    (evalAdmission p s).params = s.params ∧ (evalAdmission p s).mem = s.mem ∧
    (evalAdmission p s).linkOut = s.linkOut := by
  unfold evalAdmission
  repeat' split
  all_goals simp

@[simp] theorem evalAdmissions_frame (s : State) :
    (evalAdmissions s).pending = s.pending ∧ (evalAdmissions s).powered = s.powered ∧
    (evalAdmissions s).ixc = s.ixc ∧ (evalAdmissions s).clu = s.clu ∧ (evalAdmissions s).ctu = s.ctu ∧
    (evalAdmissions s).bte = s.bte ∧ (evalAdmissions s).swp = s.swp ∧ (evalAdmissions s).tmb = s.tmb ∧
    (evalAdmissions s).nst = s.nst ∧ (evalAdmissions s).stu = s.stu ∧ (evalAdmissions s).mif = s.mif ∧
    (evalAdmissions s).params = s.params ∧ (evalAdmissions s).mem = s.mem ∧
    (evalAdmissions s).linkOut = s.linkOut := by
  simp [evalAdmissions, allPorts]

@[simp] theorem dropWaitingFormat_frame (p : Port) (s : State) :
    (dropWaitingFormat p s).pending = s.pending ∧ (dropWaitingFormat p s).powered = s.powered ∧
    (dropWaitingFormat p s).ports = s.ports ∧ (dropWaitingFormat p s).ixc = s.ixc ∧
    (dropWaitingFormat p s).clu = s.clu ∧ (dropWaitingFormat p s).ctu = s.ctu ∧
    (dropWaitingFormat p s).bte = s.bte ∧ (dropWaitingFormat p s).swp = s.swp ∧
    (dropWaitingFormat p s).tmb = s.tmb ∧ (dropWaitingFormat p s).nst = s.nst ∧
    (dropWaitingFormat p s).stu = s.stu ∧ (dropWaitingFormat p s).params = s.params ∧
    (dropWaitingFormat p s).mem = s.mem ∧ (dropWaitingFormat p s).linkOut = s.linkOut := by
  unfold dropWaitingFormat
  repeat' split
  all_goals simp

@[simp] theorem takeLoss_frame (p : Port) (s : State) :
    (takeLoss p s).pending = s.pending ∧ (takeLoss p s).powered = s.powered ∧ (takeLoss p s).ixc = s.ixc ∧
    (takeLoss p s).clu = s.clu ∧ (takeLoss p s).ctu = s.ctu ∧ (takeLoss p s).bte = s.bte ∧
    (takeLoss p s).swp = s.swp ∧ (takeLoss p s).tmb = s.tmb ∧ (takeLoss p s).nst = s.nst ∧
    (takeLoss p s).stu = s.stu ∧ (takeLoss p s).params = s.params ∧ (takeLoss p s).mem = s.mem ∧
    (takeLoss p s).linkOut = s.linkOut := by
  unfold takeLoss
  repeat' split
  all_goals simp

@[simp] theorem takePersistence_frame (p : Port) (s : State) :
    (takePersistence p s).pending = s.pending ∧ (takePersistence p s).powered = s.powered ∧
    (takePersistence p s).ixc = s.ixc ∧ (takePersistence p s).clu = s.clu ∧ (takePersistence p s).ctu = s.ctu ∧
    (takePersistence p s).bte = s.bte ∧ (takePersistence p s).swp = s.swp ∧ (takePersistence p s).tmb = s.tmb ∧
    (takePersistence p s).nst = s.nst ∧ (takePersistence p s).stu = s.stu ∧ (takePersistence p s).mif = s.mif ∧
    (takePersistence p s).params = s.params ∧ (takePersistence p s).mem = s.mem ∧
    (takePersistence p s).linkOut = s.linkOut := by
  simp [takePersistence]

@[simp] theorem judgeSteady_frame (p : Port) (s : State) :
    (judgeSteady p s).pending = s.pending ∧ (judgeSteady p s).powered = s.powered ∧ (judgeSteady p s).ixc = s.ixc ∧
    (judgeSteady p s).clu = s.clu ∧ (judgeSteady p s).ctu = s.ctu ∧ (judgeSteady p s).bte = s.bte ∧
    (judgeSteady p s).swp = s.swp ∧ (judgeSteady p s).tmb = s.tmb ∧ (judgeSteady p s).nst = s.nst ∧
    (judgeSteady p s).stu = s.stu ∧ (judgeSteady p s).mif = s.mif ∧ (judgeSteady p s).params = s.params ∧
    (judgeSteady p s).mem = s.mem ∧ (judgeSteady p s).linkOut = s.linkOut := by
  unfold judgeSteady doWhen
  split <;> simp

@[simp] theorem judgeQuiet_frame (p : Port) (s : State) :
    (judgeQuiet p s).pending = s.pending ∧ (judgeQuiet p s).powered = s.powered ∧ (judgeQuiet p s).ixc = s.ixc ∧
    (judgeQuiet p s).clu = s.clu ∧ (judgeQuiet p s).ctu = s.ctu ∧ (judgeQuiet p s).bte = s.bte ∧
    (judgeQuiet p s).swp = s.swp ∧ (judgeQuiet p s).tmb = s.tmb ∧ (judgeQuiet p s).nst = s.nst ∧
    (judgeQuiet p s).stu = s.stu ∧ (judgeQuiet p s).params = s.params ∧ (judgeQuiet p s).mem = s.mem ∧
    (judgeQuiet p s).linkOut = s.linkOut := by
  unfold judgeQuiet doWhen
  split <;> simp

@[simp] theorem judgePort_frame (p : Port) (y : Bool) (s : State) :
    (judgePort p y s).pending = s.pending ∧ (judgePort p y s).powered = s.powered ∧ (judgePort p y s).ixc = s.ixc ∧
    (judgePort p y s).clu = s.clu ∧ (judgePort p y s).ctu = s.ctu ∧ (judgePort p y s).bte = s.bte ∧
    (judgePort p y s).swp = s.swp ∧ (judgePort p y s).tmb = s.tmb ∧ (judgePort p y s).nst = s.nst ∧
    (judgePort p y s).stu = s.stu ∧ (judgePort p y s).params = s.params ∧ (judgePort p y s).mem = s.mem ∧
    (judgePort p y s).linkOut = s.linkOut := by
  unfold judgePort
  repeat' split
  all_goals simp

@[simp] theorem tickPort_frame (y : Four Bool) (s : State) (p : Port) :
    (tickPort y s p).pending = s.pending ∧ (tickPort y s p).powered = s.powered ∧ (tickPort y s p).ixc = s.ixc ∧
    (tickPort y s p).clu = s.clu ∧ (tickPort y s p).ctu = s.ctu ∧ (tickPort y s p).bte = s.bte ∧
    (tickPort y s p).swp = s.swp ∧ (tickPort y s p).tmb = s.tmb ∧ (tickPort y s p).nst = s.nst ∧
    (tickPort y s p).stu = s.stu ∧ (tickPort y s p).params = s.params ∧ (tickPort y s p).mem = s.mem ∧
    (tickPort y s p).linkOut = s.linkOut := by
  unfold tickPort
  split <;> simp

/-- A loss changes of the memory interface at most the FORMAT that waits (R151, log 17). -/
theorem takeLoss_mif (p : Port) (s : State) :
    (takeLoss p s).mif = { s.mif with formatWaits := (takeLoss p s).mif.formatWaits } := by
  unfold takeLoss dropWaitingFormat
  repeat' split
  all_goals rfl

theorem judgeQuiet_mif (p : Port) (s : State) :
    (judgeQuiet p s).mif = { s.mif with formatWaits := (judgeQuiet p s).mif.formatWaits } := by
  unfold judgeQuiet doWhen
  split
  · exact takeLoss_mif p _
  · rfl

/-- A tick at a port changes of the memory interface at most the FORMAT that waits (R146, R151). -/
theorem tickPort_mif (y : Four Bool) (s : State) (p : Port) :
    (tickPort y s p).mif = { s.mif with formatWaits := (tickPort y s p).mif.formatWaits } := by
  unfold tickPort judgePort
  repeat' split
  · rfl
  · rfl
  · simp
  · exact judgeQuiet_mif p s

@[simp] theorem takeEviction_frame (p : Port) (s : State) :
    (takeEviction p s).pending = s.pending ∧ (takeEviction p s).powered = s.powered ∧
    (takeEviction p s).ixc = s.ixc ∧ (takeEviction p s).clu = s.clu ∧ (takeEviction p s).ctu = s.ctu ∧
    (takeEviction p s).bte = s.bte ∧ (takeEviction p s).swp = s.swp ∧ (takeEviction p s).tmb = s.tmb ∧
    (takeEviction p s).nst = s.nst ∧ (takeEviction p s).stu = s.stu ∧ (takeEviction p s).params = s.params ∧
    (takeEviction p s).mem = s.mem ∧ (takeEviction p s).linkOut = s.linkOut := by
  simp [takeEviction]

@[simp] theorem grantTurn_frame (r : Requester) (t : Turn) (s : State) :
    (grantTurn r t s).pending = s.pending ∧ (grantTurn r t s).powered = s.powered ∧
    (grantTurn r t s).ports = s.ports ∧ (grantTurn r t s).clu = s.clu ∧ (grantTurn r t s).ctu = s.ctu ∧
    (grantTurn r t s).bte = s.bte ∧ (grantTurn r t s).swp = s.swp ∧ (grantTurn r t s).tmb = s.tmb ∧
    (grantTurn r t s).nst = s.nst ∧ (grantTurn r t s).stu = s.stu ∧ (grantTurn r t s).mif = s.mif ∧
    (grantTurn r t s).params = s.params ∧ (grantTurn r t s).mem = s.mem ∧ (grantTurn r t s).linkOut = s.linkOut := by
  exact ⟨rfl, rfl, rfl, rfl, rfl, rfl, rfl, rfl, rfl, rfl, rfl, rfl, rfl, rfl⟩

@[simp] theorem endTurn_frame (s : State) :
    (endTurn s).pending = s.pending ∧ (endTurn s).powered = s.powered ∧ (endTurn s).ports = s.ports ∧
    (endTurn s).clu = s.clu ∧ (endTurn s).ctu = s.ctu ∧ (endTurn s).bte = s.bte ∧ (endTurn s).swp = s.swp ∧
    (endTurn s).tmb = s.tmb ∧ (endTurn s).nst = s.nst ∧ (endTurn s).stu = s.stu ∧ (endTurn s).mif = s.mif ∧
    (endTurn s).params = s.params ∧ (endTurn s).mem = s.mem ∧ (endTurn s).linkOut = s.linkOut := by
  exact ⟨rfl, rfl, rfl, rfl, rfl, rfl, rfl, rfl, rfl, rfl, rfl, rfl, rfl, rfl⟩

@[simp] theorem contextPut_frame (n : Nat) (c : Context) (s : State) :
    (contextPut n c s).pending = s.pending ∧ (contextPut n c s).powered = s.powered ∧
    (contextPut n c s).ports = s.ports ∧ (contextPut n c s).ixc = s.ixc ∧ (contextPut n c s).clu = s.clu ∧
    (contextPut n c s).ctu = s.ctu ∧ (contextPut n c s).swp = s.swp ∧ (contextPut n c s).tmb = s.tmb ∧
    (contextPut n c s).nst = s.nst ∧ (contextPut n c s).stu = s.stu ∧ (contextPut n c s).mif = s.mif ∧
    (contextPut n c s).params = s.params ∧ (contextPut n c s).mem = s.mem ∧
    (contextPut n c s).linkOut = s.linkOut := by
  exact ⟨rfl, rfl, rfl, rfl, rfl, rfl, rfl, rfl, rfl, rfl, rfl, rfl, rfl, rfl⟩

@[simp] theorem presentItem_frame (s : State) :
    (presentItem s).pending = s.pending ∧ (presentItem s).powered = s.powered ∧ (presentItem s).ports = s.ports ∧
    (presentItem s).ixc = s.ixc ∧ (presentItem s).clu = s.clu ∧ (presentItem s).ctu = s.ctu ∧
    (presentItem s).swp = s.swp ∧ (presentItem s).tmb = s.tmb ∧ (presentItem s).nst = s.nst ∧
    (presentItem s).stu = s.stu ∧ (presentItem s).mif = s.mif ∧ (presentItem s).params = s.params ∧
    (presentItem s).mem = s.mem ∧ (presentItem s).linkOut = s.linkOut := by
  unfold presentItem
  repeat' split
  all_goals simp

@[simp] theorem withPending_frame (s : State) (q : List Instr) :
    (s.withPending q).powered = s.powered ∧ (s.withPending q).ports = s.ports ∧ (s.withPending q).ixc = s.ixc ∧
    (s.withPending q).clu = s.clu ∧ (s.withPending q).ctu = s.ctu ∧ (s.withPending q).bte = s.bte ∧
    (s.withPending q).swp = s.swp ∧ (s.withPending q).tmb = s.tmb ∧ (s.withPending q).nst = s.nst ∧
    (s.withPending q).stu = s.stu ∧ (s.withPending q).mif = s.mif ∧ (s.withPending q).params = s.params ∧
    (s.withPending q).mem = s.mem ∧ (s.withPending q).linkOut = s.linkOut := by
  exact ⟨rfl, rfl, rfl, rfl, rfl, rfl, rfl, rfl, rfl, rfl, rfl, rfl, rfl, rfl⟩

end Sys2Proof.Machine
end

