-- ==== Sys2Proof/Laws/Tables.lean ====
section
/-! SUPPORT. Laws of the four-fold records and of tables: read after write, and that every table operation keeps the canonical form. -/

namespace Sys2Proof.Machine

section Four
variable {α : Type}

@[simp] theorem fourGet_fourSet_same (f : Four α) (p : Port) (v : α) : fourGet (fourSet f p v) p = v := by
  cases p <;> rfl

theorem fourGet_fourSet_ne (f : Four α) {p q : Port} (v : α) (h : q ≠ p) :
    fourGet (fourSet f p v) q = fourGet f q := by
  cases p <;> cases q <;> first | rfl | exact absurd rfl h

theorem fourGet_fourSet (f : Four α) (p q : Port) (v : α) :
    fourGet (fourSet f p v) q = if q = p then v else fourGet f q := by
  cases p <;> cases q <;> rfl

@[simp] theorem fourGet_fourOf (g : Port → α) (p : Port) : fourGet (fourOf g) p = g p := by
  cases p <;> rfl

@[simp] theorem fourSet_fourGet (f : Four α) (p : Port) : fourSet f p (fourGet f p) = f := by
  cases p <;> rfl

theorem four_ext {f g : Four α} (h : ∀ p, fourGet f p = fourGet g p) : f = g := by
  cases f; cases g
  have h0 := h .p0; have h1 := h .p1; have h2 := h .p2; have h3 := h .p3
  simp_all [fourGet]

theorem mem_allPorts (p : Port) : p ∈ allPorts := by cases p <;> simp [allPorts]

end Four

section Table
variable {α : Type}

theorem tableGet_erase_same (d : α) (t : List (Nat × α)) (k : Nat) : tableGet d (tableErase t k) k = d := by
  induction t with
  | nil => rfl
  | cons e rest ih =>
    obtain ⟨j, v⟩ := e
    by_cases h : j = k <;> simp_all [tableErase, tableGet]

theorem tableGet_erase_ne (d : α) (t : List (Nat × α)) {k m : Nat} (h : m ≠ k) :
    tableGet d (tableErase t k) m = tableGet d t m := by
  induction t with
  | nil => rfl
  | cons e rest ih =>
    obtain ⟨j, v⟩ := e
    by_cases hj : j = k
    · subst hj; simp_all [tableErase, tableGet, Ne.symm h]
    · by_cases hm : j = m <;> simp_all [tableErase, tableGet]

theorem tableGet_insert (d : α) (t : List (Nat × α)) (k m : Nat) (v : α)
    (hk : ∀ e ∈ t, e.1 ≠ k) : tableGet d (tableInsert k v t) m = if k = m then v else tableGet d t m := by
  induction t with
  | nil => simp [tableInsert, tableGet]
  | cons e rest ih =>
    obtain ⟨j, w⟩ := e
    have hj : j ≠ k := hk (j, w) (by simp)
    have ih' := ih (fun e he => hk e (by simp [he]))
    by_cases hlt : k < j
    · simp [tableInsert, hlt, tableGet]
    · by_cases hm : j = m
      · subst hm; simp [tableInsert, hlt, tableGet, Ne.symm hj]
      · simp [tableInsert, hlt, tableGet, ih', hm]

theorem tableErase_ne (t : List (Nat × α)) (k : Nat) : ∀ e ∈ tableErase t k, e.1 ≠ k := by
  intro e he
  simpa [tableErase] using (List.mem_filter.mp he).2

variable [DecidableEq α]

/-- A read after a write: the value written at that number, every other number as before. -/
theorem tableGet_set (d : α) (t : List (Nat × α)) (k m : Nat) (v : α) :
    tableGet d (tableSet d t k v) m = if k = m then v else tableGet d t m := by
  unfold tableSet
  by_cases hv : v = d
  · by_cases hm : k = m
    · subst hm; simp [hv, tableGet_erase_same]
    · simp [hv, hm, tableGet_erase_ne d t (Ne.symm hm)]
  · rw [if_neg hv, tableGet_insert d _ k m v (tableErase_ne t k)]
    by_cases hm : k = m
    · simp [hm]
    · simp [hm, tableGet_erase_ne d t (Ne.symm hm)]

@[simp] theorem tableGet_set_same (d : α) (t : List (Nat × α)) (k : Nat) (v : α) :
    tableGet d (tableSet d t k v) k = v := by simp [tableGet_set]

theorem tableGet_set_ne (d : α) (t : List (Nat × α)) {k m : Nat} (v : α) (h : m ≠ k) :
    tableGet d (tableSet d t k v) m = tableGet d t m := by simp [tableGet_set, Ne.symm h]

/-- The canonical form, said without recursion. -/
theorem tableWf_iff (d : α) (t : List (Nat × α)) :
    tableWf d t = true ↔ t.Pairwise (fun a b => a.1 < b.1) ∧ ∀ e ∈ t, e.2 ≠ d := by
  induction t with
  | nil => simp [tableWf]
  | cons e rest ih =>
    obtain ⟨k, v⟩ := e
    cases rest with
    | nil => simp [tableWf]
    | cons e' rest' =>
      obtain ⟨j, w⟩ := e'
      simp only [tableWf, Bool.and_eq_true, decide_eq_true_eq] at ih ⊢
      constructor
      · rintro ⟨⟨hv, hlt⟩, hr⟩
        obtain ⟨hp, hd⟩ := ih.mp hr
        refine ⟨List.pairwise_cons.mpr ⟨?_, hp⟩, ?_⟩
        · intro b hb
          rcases List.mem_cons.mp hb with rfl | hb
          · exact hlt
          · exact Nat.lt_trans hlt ((List.pairwise_cons.mp hp).1 b hb)
        · intro e he
          rcases List.mem_cons.mp he with rfl | he
          · exact hv
          · exact hd e he
      · rintro ⟨hp, hd⟩
        have hp' := List.pairwise_cons.mp hp
        exact ⟨⟨hd (k, v) (by simp), hp'.1 (j, w) (by simp)⟩, ih.mpr ⟨hp'.2, fun e he => hd e (by simp [he])⟩⟩

theorem tableErase_wf (d : α) (t : List (Nat × α)) (k : Nat) (h : tableWf d t = true) :
    tableWf d (tableErase t k) = true := by
  rw [tableWf_iff] at h ⊢
  exact ⟨h.1.filter _, fun e he => h.2 e (List.mem_of_mem_filter he)⟩

theorem tableInsert_mem (k : Nat) (v : α) (t : List (Nat × α)) (e : Nat × α) :
    e ∈ tableInsert k v t ↔ e = (k, v) ∨ e ∈ t := by
  induction t with
  | nil => simp [tableInsert]
  | cons a rest ih =>
    obtain ⟨j, w⟩ := a
    by_cases h : k < j
    · simp [tableInsert, h]
    · simp only [tableInsert, h, if_false, List.mem_cons, ih]
      tauto

theorem tableInsert_pairwise (k : Nat) (v : α) (t : List (Nat × α)) (hk : ∀ e ∈ t, e.1 ≠ k)
    (h : t.Pairwise (fun a b => a.1 < b.1)) : (tableInsert k v t).Pairwise (fun a b => a.1 < b.1) := by
  induction t with
  | nil => simp [tableInsert]
  | cons a rest ih =>
    obtain ⟨j, w⟩ := a
    have hp := List.pairwise_cons.mp h
    by_cases hlt : k < j
    · simp only [tableInsert, hlt, if_true]
      refine List.pairwise_cons.mpr ⟨?_, h⟩
      intro b hb
      rcases List.mem_cons.mp hb with rfl | hb
      · exact hlt
      · exact Nat.lt_trans hlt (hp.1 b hb)
    · have hj : j ≠ k := hk (j, w) (by simp)
      have hlt' : j < k := by omega
      simp only [tableInsert, hlt, if_false]
      refine List.pairwise_cons.mpr ⟨?_, ih (fun e he => hk e (by simp [he])) hp.2⟩
      intro b hb
      rcases (tableInsert_mem k v rest b).mp hb with rfl | hb
      · exact hlt'
      · exact hp.1 b hb

/-- A write keeps the canonical form. -/
theorem tableSet_wf (d : α) (t : List (Nat × α)) (k : Nat) (v : α) (h : tableWf d t = true) :
    tableWf d (tableSet d t k v) = true := by
  unfold tableSet
  by_cases hv : v = d
  · simpa [hv] using tableErase_wf d t k h
  · rw [if_neg hv]
    have he := tableErase_wf d t k h
    rw [tableWf_iff] at he ⊢
    refine ⟨tableInsert_pairwise k v _ (tableErase_ne t k) he.1, ?_⟩
    intro e hm
    rcases (tableInsert_mem k v _ e).mp hm with rfl | hm
    · exact hv
    · exact he.2 e hm

/-- A map over the listed records keeps the canonical form. -/
theorem tableMap_wf (d : α) (g : Nat → α → α) (t : List (Nat × α)) (h : tableWf d t = true) :
    tableWf d (tableMap d g t) = true := by
  rw [tableWf_iff] at h ⊢
  unfold tableMap
  refine ⟨?_, ?_⟩
  · rw [List.pairwise_filterMap]
    refine h.1.imp ?_
    rintro a b hab x hx y hy
    split at hx
    · simp at hx
    · split at hy
      · simp at hy
      · simp only [Option.some.injEq] at hx hy
        subst hx; subst hy; exact hab
  · intro e he
    obtain ⟨a, -, ha⟩ := List.mem_filterMap.mp he
    split at ha
    · simp at ha
    · rename_i hne
      simp only [Option.some.injEq] at ha
      subst ha; exact hne

omit [DecidableEq α] in
/-- A record read from a table of which a test on numbers keeps some. -/
theorem tableGet_filter (d : α) (f : Nat → Bool) (t : List (Nat × α)) (k : Nat) :
    tableGet d (t.filter (fun e => f e.1)) k = if f k = true then tableGet d t k else d := by
  induction t with
  | nil => simp [tableGet]
  | cons e l ih =>
    rw [List.filter_cons]
    by_cases hf : f e.1 = true
    · rw [if_pos hf]
      by_cases hk : e.1 = k
      · subst hk; simp [tableGet, hf]
      · simp [tableGet, hk, ih]
    · rw [if_neg hf, ih]
      by_cases hk : e.1 = k
      · subst hk; simp [hf]
      · simp [tableGet, hk]

/-- A map reads as the function of what was listed, where the function keeps the unlisted record. -/
theorem tableGet_map (d : α) (g : Nat → α → α) (t : List (Nat × α)) (k : Nat) (hd : g k d = d)
    (h : tableWf d t = true) : tableGet d (tableMap d g t) k = g k (tableGet d t k) := by
  induction t with
  | nil => simp [tableMap, tableGet, hd]
  | cons e rest ih =>
    obtain ⟨j, v⟩ := e
    have hr : tableWf d rest = true := by
      rw [tableWf_iff] at h ⊢
      exact ⟨(List.pairwise_cons.mp h.1).2, fun e he => h.2 e (by simp [he])⟩
    have hj : ∀ e ∈ rest, j < e.1 := by
      rw [tableWf_iff] at h
      exact (List.pairwise_cons.mp h.1).1
    have hnone : ∀ (t : List (Nat × α)), (∀ e ∈ t, e.1 ≠ j) → tableGet d t j = d := by
      intro t
      induction t with
      | nil => intro _; rfl
      | cons a r ih2 =>
        intro ha
        obtain ⟨i, w⟩ := a
        have hi : i ≠ j := ha (i, w) (by simp)
        simp [tableGet, hi, ih2 (fun e he => ha e (by simp [he]))]
    by_cases hjk : j = k
    · subst hjk
      by_cases hv : g j v = d
      · have h1 : tableMap d g ((j, v) :: rest) = tableMap d g rest := by simp [tableMap, hv]
        rw [h1, ih hr, hnone rest (fun e he => by have := hj e he; omega)]
        simp [tableGet, hv, hd]
      · simp [tableMap, hv, tableGet]
    · have h2 : tableGet d ((j, v) :: rest) k = tableGet d rest k := by simp [tableGet, hjk]
      rw [h2, ← ih hr]
      by_cases hv : g j v = d
      · simp [tableMap, hv]
      · simp [tableMap, hv, tableGet, hjk]

omit [DecidableEq α] in
/-- A number that no pair has reads as the unlisted record. -/
theorem tableGet_none (d : α) (t : List (Nat × α)) (k : Nat) (h : ∀ e ∈ t, e.1 ≠ k) : tableGet d t k = d := by
  induction t with
  | nil => rfl
  | cons e t ih =>
    obtain ⟨j, v⟩ := e
    have hj : j ≠ k := h (j, v) (List.mem_cons_self ..)
    simp only [tableGet, if_neg hj]
    exact ih (fun e he => h e (List.mem_cons_of_mem _ he))

omit [DecidableEq α] in
/-- A read past a first part that has no pair with the number. -/
theorem tableGet_append_left (d : α) (a b : List (Nat × α)) (k : Nat) (h : ∀ e ∈ a, e.1 ≠ k) :
    tableGet d (a ++ b) k = tableGet d b k := by
  induction a with
  | nil => rfl
  | cons e t ih =>
    obtain ⟨j, v⟩ := e
    have hj : j ≠ k := h (j, v) (List.mem_cons_self ..)
    simp only [List.cons_append, tableGet, if_neg hj]
    exact ih (fun e he => h e (List.mem_cons_of_mem _ he))

omit [DecidableEq α] in
/-- A read before a second part that has no pair with the number. -/
theorem tableGet_append_right (d : α) (a b : List (Nat × α)) (k : Nat) (h : ∀ e ∈ b, e.1 ≠ k) :
    tableGet d (a ++ b) k = tableGet d a k := by
  induction a with
  | nil => exact tableGet_none d b k h
  | cons e t ih =>
    obtain ⟨j, v⟩ := e
    simp only [List.cons_append, tableGet, ih]

/-- Two tables, the numbers of the first below those of the second, are one table. -/
theorem tableWf_append (d : α) {a b : List (Nat × α)} (ha : tableWf d a = true) (hb : tableWf d b = true)
    (h : ∀ x ∈ a, ∀ y ∈ b, x.1 < y.1) : tableWf d (a ++ b) = true := by
  rw [tableWf_iff] at *
  refine ⟨List.pairwise_append.mpr ⟨ha.1, hb.1, h⟩, ?_⟩
  intro e he
  rcases List.mem_append.mp he with he | he
  · exact ha.2 e he
  · exact hb.2 e he

end Table

end Sys2Proof.Machine
end

