-- ==== Sys2Proof/Laws/Ops.lean ====
section
/-! SUPPORT. What each shared operation does: reads after writes, notices, counters, answers, verification and search. -/

namespace Sys2Proof.Machine

/-! ## Port units -/

theorem portUnit_updPort (p q : Port) (g : PortUnit → PortUnit) (s : State) :
    portUnit (updPort p g s) q = if q = p then g (portUnit s p) else portUnit s q := by
  simp [portUnit, updPort, fourGet_fourSet]

@[simp] theorem portUnit_updPort_same (p : Port) (g : PortUnit → PortUnit) (s : State) :
    portUnit (updPort p g s) p = g (portUnit s p) := by simp [portUnit_updPort]

theorem portUnit_updPort_ne {p q : Port} (g : PortUnit → PortUnit) (s : State) (h : q ≠ p) :
    portUnit (updPort p g s) q = portUnit s q := by simp [portUnit_updPort, h]

@[simp] theorem portUnit_updPorts (g : Port → PortUnit → PortUnit) (s : State) (p : Port) :
    portUnit (updPorts g s) p = g p (portUnit s p) := by
  simp [portUnit, updPorts]

theorem updPort_updPort (p : Port) (g h : PortUnit → PortUnit) (s : State) :
    updPort p g (updPort p h s) = updPort p (fun u => g (h u)) s := by
  cases p <;> rfl

@[simp] theorem portUnit_ports (s t : State) (h : t.ports = s.ports) (p : Port) : portUnit t p = portUnit s p := by
  simp [portUnit, h]

/-! ## Notices: what raising an event or a signal leaves of a port unit -/

/-- Two port units that differ at most in event set, attention line and last signalled values. -/
structure SameButNotices (u v : PortUnit) : Prop where
  state : u.state = v.state
  privilege : u.privilege = v.privilege
  nsMap : u.nsMap = v.nsMap
  autoAdmit : u.autoAdmit = v.autoAdmit
  queue : u.queue = v.queue
  responses : u.responses = v.responses
  finishing : u.finishing = v.finishing
  mask : u.mask = v.mask
  occEdge : u.occEdge = v.occEdge
  lowEdge : u.lowEdge = v.lowEdge
  quiet : u.quiet = v.quiet
  persistence : u.persistence = v.persistence
  persistenceMet : u.persistenceMet = v.persistenceMet
  suppression : u.suppression = v.suppression
  teardownCtu : u.teardownCtu = v.teardownCtu
  teardownBte : u.teardownBte = v.teardownBte
  teardownClu : u.teardownClu = v.teardownClu
  session : u.session = v.session
  symbolSeen : u.symbolSeen = v.symbolSeen
  judged : u.judged = v.judged

theorem SameButNotices.rfl {u : PortUnit} : SameButNotices u u := by constructor <;> exact Eq.refl _

theorem SameButNotices.trans {u v w : PortUnit} (h : SameButNotices u v) (k : SameButNotices v w) :
    SameButNotices u w := by
  constructor <;> first
    | exact h.1.trans k.1 | exact h.2.trans k.2 | exact h.3.trans k.3 | exact h.4.trans k.4 | exact h.5.trans k.5
    | exact h.6.trans k.6 | exact h.7.trans k.7 | exact h.8.trans k.8 | exact h.9.trans k.9 | exact h.10.trans k.10
    | exact h.11.trans k.11 | exact h.12.trans k.12 | exact h.13.trans k.13 | exact h.14.trans k.14
    | exact h.15.trans k.15 | exact h.16.trans k.16 | exact h.17.trans k.17 | exact h.18.trans k.18
    | exact h.19.trans k.19 | exact h.20.trans k.20

theorem unitAttn_notices (u : PortUnit) : SameButNotices (unitAttn u) u := by constructor <;> rfl

theorem unitRaise_notices (k : EventKind) (u : PortUnit) : SameButNotices (unitRaise k u) u := by
  unfold unitRaise; split
  · exact .rfl
  · constructor <;> rfl

theorem unitSignalOccupancy_notices (v : Bool) (u : PortUnit) : SameButNotices (unitSignalOccupancy v u) u := by
  unfold unitSignalOccupancy; split
  · exact (unitRaise_notices _ _).trans (by constructor <;> rfl)
  · constructor <;> rfl

theorem unitSignalLow_notices (v : Bool) (u : PortUnit) : SameButNotices (unitSignalLow v u) u := by
  unfold unitSignalLow; split
  · exact (unitRaise_notices _ _).trans (by constructor <;> rfl)
  · constructor <;> rfl

/-- The port units of two states differ at most in what notices change. -/
def NoticesOnly (t s : State) : Prop := ∀ p, SameButNotices (portUnit t p) (portUnit s p)

theorem NoticesOnly.rfl {s : State} : NoticesOnly s s := fun _ => .rfl

theorem NoticesOnly.trans {a b c : State} (h : NoticesOnly a b) (k : NoticesOnly b c) : NoticesOnly a c :=
  fun p => (h p).trans (k p)

theorem NoticesOnly.of_ports {t s : State} (h : t.ports = s.ports) : NoticesOnly t s := by
  intro p; rw [show portUnit t p = portUnit s p by simp [portUnit, h]]; exact .rfl

theorem raiseAll_notices (k : EventKind) (s : State) : NoticesOnly (raiseAll k s) s := by
  intro p; simpa [raiseAll] using unitRaise_notices k _

theorem raiseTo_notices (p : Port) (k : EventKind) (s : State) : NoticesOnly (raiseTo p k s) s := by
  intro q
  rw [raiseTo, portUnit_updPort]
  split
  · next h => subst h; exact unitRaise_notices k _
  · exact .rfl

theorem raiseOthers_notices (p : Port) (k : EventKind) (s : State) : NoticesOnly (raiseOthers p k s) s := by
  intro q
  simp only [raiseOthers, portUnit_updPorts]
  split
  · exact .rfl
  · exact unitRaise_notices k _

theorem evalOccupancy_notices (s : State) : NoticesOnly (evalOccupancy s) s := by
  unfold evalOccupancy
  split
  · exact .rfl
  · intro p
    rw [portUnit_updPorts]
    exact unitSignalOccupancy_notices _ _

theorem evalContainersLow_notices (s : State) : NoticesOnly (evalContainersLow s) s := by
  unfold evalContainersLow
  split
  · exact .rfl
  · intro p
    rw [portUnit_updPorts]
    exact unitSignalLow_notices _ _

theorem setOccupancy_notices (n : Nat) (s : State) : NoticesOnly (setOccupancy n s) s :=
  (evalOccupancy_notices _).trans (.of_ports rfl)

theorem countOne_notices (k n : Nat) (s : State) : NoticesOnly (countOne k n s) s := by
  unfold countOne
  dsimp only
  split
  · exact (raiseAll_notices _ _).trans (.of_ports rfl)
  · exact .of_ports rfl

theorem countNs_notices (ns : Nat) (c : NsCounter) (n : Nat) (s : State) : NoticesOnly (countNs ns c n s) s := by
  unfold countNs
  split
  · exact countOne_notices _ _ _
  · exact .rfl

theorem countPort_notices (p : Port) (c : PortCounter) (n : Nat) (s : State) : NoticesOnly (countPort p c n s) s :=
  countOne_notices _ _ _

theorem takeSnapshot_notices (s : State) : NoticesOnly (takeSnapshot s) s :=
  (raiseAll_notices _ _).trans (.of_ports rfl)

theorem slotPut_notices (n : Nat) (im : SlotImage) (s : State) : NoticesOnly (slotPut n im s) s := .of_ports rfl

theorem repairUnclaimed_notices (n : Nat) (s : State) : NoticesOnly (repairUnclaimed n s) s := by
  unfold repairUnclaimed
  dsimp only
  repeat' split
  all_goals
    first
    | exact (raiseAll_notices _ _).trans (slotPut_notices _ _ _)
    | exact (raiseAll_notices _ _).trans ((setOccupancy_notices _ _).trans (slotPut_notices _ _ _))

theorem verifySlot_notices (n : Nat) (s : State) : NoticesOnly (verifySlot n s) s := by
  unfold verifySlot
  repeat' split
  · exact .rfl
  · exact slotPut_notices _ _ _
  · exact repairUnclaimed_notices _ _

theorem searchFrom_notices (fp : Fingerprint) (ns : List Nat) (s : State) : NoticesOnly (searchFrom fp ns s).1 s := by
  induction ns generalizing s with
  | nil => unfold searchFrom; exact .rfl
  | cons n rest ih =>
    unfold searchFrom
    split
    · exact verifySlot_notices n s
    · exact (ih _).trans (verifySlot_notices n s)

theorem searchIndex_notices (fp : Fingerprint) (s : State) : NoticesOnly (searchIndex fp s).1 s :=
  searchFrom_notices _ _ _

@[simp] theorem searchFrom_frame (fp : Fingerprint) (ns : List Nat) (s : State) :
    (searchFrom fp ns s).1.pending = s.pending ∧ (searchFrom fp ns s).1.powered = s.powered ∧
    (searchFrom fp ns s).1.clu = s.clu ∧ (searchFrom fp ns s).1.ctu = s.ctu ∧ (searchFrom fp ns s).1.bte = s.bte ∧
    (searchFrom fp ns s).1.swp = s.swp ∧ (searchFrom fp ns s).1.tmb = s.tmb ∧ (searchFrom fp ns s).1.nst = s.nst ∧
    (searchFrom fp ns s).1.stu = s.stu ∧ (searchFrom fp ns s).1.mif = s.mif ∧
    (searchFrom fp ns s).1.params = s.params ∧ (searchFrom fp ns s).1.linkOut = s.linkOut := by
  induction ns generalizing s with
  | nil => simp [searchFrom]
  | cons n rest ih =>
    unfold searchFrom
    split
    · simp
    · simpa using ih (verifySlot n s)

@[simp] theorem searchIndex_frame (fp : Fingerprint) (s : State) :
    (searchIndex fp s).1.pending = s.pending ∧ (searchIndex fp s).1.powered = s.powered ∧
    (searchIndex fp s).1.clu = s.clu ∧ (searchIndex fp s).1.ctu = s.ctu ∧ (searchIndex fp s).1.bte = s.bte ∧
    (searchIndex fp s).1.swp = s.swp ∧ (searchIndex fp s).1.tmb = s.tmb ∧ (searchIndex fp s).1.nst = s.nst ∧
    (searchIndex fp s).1.stu = s.stu ∧ (searchIndex fp s).1.mif = s.mif ∧ (searchIndex fp s).1.params = s.params ∧
    (searchIndex fp s).1.linkOut = s.linkOut := by
  unfold searchIndex
  exact searchFrom_frame _ _ _

/-! ## Occupancy and conditions -/

@[simp] theorem evalOccupancy_ixc (s : State) :
    (evalOccupancy s).ixc = { s.ixc with occupancyHigh := occupancyCondition s } := by
  unfold evalOccupancy
  split
  · next h => rw [h]
  · simp

@[simp] theorem setOccupancy_occupancy (n : Nat) (s : State) : (setOccupancy n s).ixc.occupancy = n := by
  simp [setOccupancy]

@[simp] theorem setOccupancy_turn (n : Nat) (s : State) :
    (setOccupancy n s).ixc.lastServed = s.ixc.lastServed ∧ (setOccupancy n s).ixc.inProgress = s.ixc.inProgress := by
  simp [setOccupancy]

@[simp] theorem evalContainersLow_ctu (s : State) :
    (evalContainersLow s).ctu = { s.ctu with containersLow := containersLowCondition s } := by
  unfold evalContainersLow
  split
  · next h => rw [h]
  · simp

/-! ## Reads after writes -/

/-- Places from module `m` on lie at or above its first place. -/
theorem placeFrom_ge (m : Nat) (sizes : List Nat) (n : Nat) : m * Config.moduleSpan ≤ placeFrom m sizes n := by
  induction sizes generalizing m n with
  | nil => simp [placeFrom]
  | cons size rest ih =>
    unfold placeFrom
    split
    · omega
    · have := ih (m + 1) (n - size)
      rw [Nat.succ_mul] at this
      omega

theorem moduleSlots_le (d : Descriptor) : moduleSlots d ≤ Config.moduleSpan := by
  unfold moduleSlots Config.moduleSpan
  split <;> omega

theorem countedSizes_le (ds : Four Descriptor) : ∀ z ∈ countedSizes ds, z ≤ Config.moduleSpan := by
  intro z hz
  obtain ⟨d, -, rfl⟩ := List.mem_map.mp hz
  exact moduleSlots_le d

theorem placeFrom_injective (m : Nat) (sizes : List Nat) (h : ∀ z ∈ sizes, z ≤ Config.moduleSpan) {a b : Nat}
    (hab : placeFrom m sizes a = placeFrom m sizes b) : a = b := by
  induction sizes generalizing m a b with
  | nil => simp [placeFrom] at hab; exact hab
  | cons size rest ih =>
    have hs := h size (by simp)
    have hr : ∀ z ∈ rest, z ≤ Config.moduleSpan := fun z hz => h z (by simp [hz])
    have ha := placeFrom_ge (m + 1) rest (a - size)
    have hb := placeFrom_ge (m + 1) rest (b - size)
    rw [Nat.succ_mul] at ha hb
    unfold placeFrom at hab
    split at hab <;> split at hab
    · omega
    · omega
    · omega
    · have := ih (m + 1) hr hab; omega

/-- Two slot numbers have two places. -/
theorem slotPlace_injective (ds : Four Descriptor) {a b : Nat} (h : slotPlace ds a = slotPlace ds b) : a = b :=
  placeFrom_injective 0 _ (countedSizes_le ds) h

theorem slotGet_slotPut (n m : Nat) (im : SlotImage) (s : State) :
    slotGet (slotPut n im s) m = if m = n then im else slotGet s m := by
  unfold slotGet slotPut
  rw [tableGet_set]
  by_cases h : m = n
  · subst h; simp
  · rw [if_neg h, if_neg (fun he => h (slotPlace_injective _ he.symm))]

@[simp] theorem slotGet_slotPut_same (n : Nat) (im : SlotImage) (s : State) : slotGet (slotPut n im s) n = im := by
  simp [slotGet_slotPut]

theorem slotGet_slotPut_ne {n m : Nat} (im : SlotImage) (s : State) (h : m ≠ n) :
    slotGet (slotPut n im s) m = slotGet s m := by simp [slotGet_slotPut, h]

/-- A slot reads the same in states with the same slots and descriptors. -/
theorem slotGet_congr {s t : State} (hm : t.mem.slots = s.mem.slots) (hd : t.mif.descriptors = s.mif.descriptors)
    (n : Nat) : slotGet t n = slotGet s n := by simp [slotGet, hm, hd]

theorem claimGet_claimPut (n m : Nat) (r : ClaimRec) (s : State) :
    claimGet (claimPut n r s) m = if n = m then r else claimGet s m := by
  simp [claimGet, claimPut, tableGet_set]

@[simp] theorem claimGet_claimPut_same (n : Nat) (r : ClaimRec) (s : State) : claimGet (claimPut n r s) n = r := by
  simp [claimGet_claimPut]

theorem containerGet_containerPut (c d : Nat) (r : ContainerRec) (s : State) :
    containerGet (containerPut c r s) d = if c = d then r else containerGet s d := by
  simp [containerGet, containerPut, memContainers, tableGet_set]

@[simp] theorem containerGet_containerPut_same (c : Nat) (r : ContainerRec) (s : State) :
    containerGet (containerPut c r s) c = r := by simp [containerGet_containerPut]

theorem contextGet_contextPut (n m : Nat) (c : Context) (s : State) :
    contextGet (contextPut n c s) m = if n = m then c else contextGet s m := by
  simp [contextGet, contextPut, tableGet_set]

@[simp] theorem contextGet_contextPut_same (n : Nat) (c : Context) (s : State) :
    contextGet (contextPut n c s) n = c := by simp [contextGet_contextPut]

/-! ## Counters -/

theorem counterAdd_le (c : Counter) (n : Nat) : (counterAdd c n).value ≤ Config.counterMax := by
  unfold counterAdd
  split
  · simp; omega
  · simp

/-- A live counter after a count: the counter named takes the amount, every other keeps its value. -/
theorem countOne_live (k n : Nat) (s : State) (m : Nat) :
    tableGet Counter.zero (countOne k n s).stu.live m =
      if k = m then counterAdd (tableGet Counter.zero s.stu.live k) n
      else tableGet Counter.zero s.stu.live m := by
  unfold countOne
  dsimp only
  split <;> simp [tableGet_set]

@[simp] theorem countOne_stu (k n : Nat) (s : State) :
    (countOne k n s).stu.snap = s.stu.snap ∧ (countOne k n s).stu.sequence = s.stu.sequence ∧
    (countOne k n s).stu.timer = s.stu.timer := by
  unfold countOne
  dsimp only
  split <;> simp

/-! ## Answers -/

/-- What `answer` does when the outcome is sent. -/
theorem answer_sent {s : State} {p : Port} {tag : Tag} {e : QEntry} (a : Answer) (hq : queued s p tag = some e)
    {mark : Session} (hm : mark = (portUnit s p).session) (hr : s.mif.restartTaken = false) :
    answer p tag mark a s =
      updPort p (fun u =>
        { u with
          queue := u.queue.filter (fun x => decide (x.tag ≠ tag)),
          responses := u.responses ++ [{ kind := kindCode e.kind, tag := tag, answer := a }] }) s := by
  unfold answer
  rw [hq]
  simp [hm, hr]

/-- What `answer` does when the outcome is dropped. -/
theorem answer_dropped {s : State} {p : Port} {tag : Tag} {mark : Session} (a : Answer)
    (h : queued s p tag = none ∨ mark ≠ (portUnit s p).session) : answer p tag mark a s = s := by
  unfold answer
  split
  · rfl
  · rcases h with h | h
    · simp_all
    · rw [if_pos h]

/-- What `answer` does once a RESTART is taken: no response, and the request is noted as taken. -/
theorem answer_restarted {s : State} {p : Port} {tag : Tag} {e : QEntry} (a : Answer) (hq : queued s p tag = some e)
    {mark : Session} (hm : mark = (portUnit s p).session) (hr : s.mif.restartTaken = true) :
    answer p tag mark a s = markTaken p tag s := by
  unfold answer
  rw [hq]
  simp [hm, hr]

/-- An answer leaves the other ports as they are. -/
theorem answer_other {s : State} {p q : Port} (h : q ≠ p) (tag : Tag) (mark : Session) (a : Answer) :
    portUnit (answer p tag mark a s) q = portUnit s q := by
  unfold answer
  repeat' split
  all_goals first | rfl | exact portUnit_updPort_ne _ _ h

/-! ## Search -/

/-- A slot that is SUSPECT or holds is verified without effect (R13). -/
theorem verifySlot_sound {s : State} {n : Nat} (h : slotState s n = some .suspect ∨ imageHolds (slotGet s n) = true) :
    verifySlot n s = s := by
  unfold verifySlot; rw [if_pos h]

/-- A search over slots that are SUSPECT or hold changes nothing, and finds the first that matches (R7). -/
theorem searchFrom_sound {s : State} {fp : Fingerprint} {ns : List Nat}
    (h : ∀ n ∈ ns, slotState s n = some .suspect ∨ imageHolds (slotGet s n) = true) :
    searchFrom fp ns s = (s, ns.find? (slotMatches s fp)) := by
  induction ns with
  | nil => unfold searchFrom; rfl
  | cons n rest ih =>
    have hn := verifySlot_sound (h n (by simp))
    unfold searchFrom
    rw [hn]
    by_cases hm : slotMatches s fp n = true
    · simp [hm]
    · simp only [hm, List.find?_cons]
      simpa using ih (fun m hm => h m (by simp [hm]))

/-- The slot a search finds matches the fingerprint, in the state the search leaves. -/
theorem searchFrom_found {s : State} {fp : Fingerprint} {ns : List Nat} {n : Nat}
    (h : (searchFrom fp ns s).2 = some n) : n ∈ ns ∧ slotMatches (searchFrom fp ns s).1 fp n = true := by
  induction ns generalizing s with
  | nil => simp [searchFrom] at h
  | cons m rest ih =>
    unfold searchFrom at h ⊢
    by_cases hm : slotMatches (verifySlot m s) fp m = true
    · simp only [hm, if_true] at h ⊢
      simp only [Option.some.injEq] at h
      subst h
      exact ⟨by simp, hm⟩
    · simp only [hm] at h ⊢
      simp only [Bool.false_eq_true, if_false] at h ⊢
      have := ih h
      exact ⟨by simp [this.1], this.2⟩

end Sys2Proof.Machine
end

