-- ==== Sys2Proof/Laws/Memory.lean ====
section
/-! SUPPORT. Every operation on index memory and on the other tables keeps the canonical form. -/

namespace Sys2Proof.Machine

/-! ## Index memory -/

/-- The canonical form of index memory, table by table. -/
theorem IndexMemory.wf_iff (m : IndexMemory) :
    m.wf = true ↔ tableWf SlotImage.free m.slots = true ∧ tableWf ContainerRec.zero m.containers = true ∧
      tableWf NsRec.zero m.settings.namespaces = true ∧ m.region1.wf = true ∧ m.region2.wf = true ∧
        m.region3.wf = true := by
  simp [IndexMemory.wf, and_assoc]

theorem blank_wf : IndexMemory.blank.wf = true := by decide

theorem memHeader_wf (g : Header → Header) {m : IndexMemory} (h : m.wf = true) : (memHeader g m).wf = true := h

theorem memContainers_wf {t : List (Nat × ContainerRec)} {m : IndexMemory} (h : m.wf = true)
    (ht : tableWf ContainerRec.zero t = true) : (memContainers t m).wf = true := by
  rw [IndexMemory.wf_iff] at *; exact ⟨h.1, ht, h.2.2⟩

theorem memSettings_wf {v : Settings} {m : IndexMemory} (h : m.wf = true)
    (hv : tableWf NsRec.zero v.namespaces = true) : (memSettings v m).wf = true := by
  rw [IndexMemory.wf_iff] at *; exact ⟨h.1, h.2.1, hv, h.2.2.2⟩

theorem memSlots_wf {t : List (Nat × SlotImage)} {m : IndexMemory} (h : m.wf = true)
    (ht : tableWf SlotImage.free t = true) : IndexMemory.wf { m with slots := t } = true := by
  rw [IndexMemory.wf_iff] at *; exact ⟨ht, h.2⟩

/-- A filter keeps the canonical form. -/
theorem tableFilter_wf {α : Type} [DecidableEq α] (d : α) (b : Nat × α → Bool) (t : List (Nat × α))
    (h : tableWf d t = true) : tableWf d (t.filter b) = true := by
  rw [tableWf_iff] at h ⊢
  exact ⟨h.1.filter _, fun e he => h.2 e (List.mem_of_mem_filter he)⟩

/-- A table made by numbering upward, default records left out, is in canonical form. -/
theorem tableOfRange_wf {α : Type} [DecidableEq α] (d : α) (g : Nat → α) (n : Nat) :
    tableWf d ((List.range n).filterMap (fun c => if g c = d then none else some (c, g c))) = true := by
  rw [tableWf_iff]
  refine ⟨?_, ?_⟩
  · rw [List.pairwise_filterMap]
    refine List.pairwise_lt_range.imp ?_
    intro a b hab x hx y hy
    split at hx
    · simp at hx
    · split at hy
      · simp at hy
      · simp only [Option.some.injEq] at hx hy; subst hx; subst hy; exact hab
  · intro e he
    obtain ⟨a, -, ha⟩ := List.mem_filterMap.mp he
    split at ha
    · simp at ha
    · next hne => simp only [Option.some.injEq] at ha; subst ha; exact hne

theorem recoverContainers_wf (ds : Four Descriptor) (slots : List (Nat × SlotImage))
    (t : List (Nat × ContainerRec)) : tableWf ContainerRec.zero (recoverContainers ds slots t) = true := by
  unfold recoverContainers
  exact tableOfRange_wf ContainerRec.zero _ _

theorem recoverStartCount_wf {m : IndexMemory} (h : m.wf = true) : (recoverStartCount m).wf = true := h

theorem recoverClock_wf {m : IndexMemory} (h : m.wf = true) : (recoverClock m).wf = true := h

theorem recoverSettings_wf {m : IndexMemory} (h : m.wf = true) : (recoverSettings m).wf = true := by
  unfold recoverSettings
  split
  · exact h
  · exact memSettings_wf h rfl

theorem recoverSlots_wf (ds : Four Descriptor) (limit : Option Nat) {m : IndexMemory} (h : m.wf = true) :
    (recoverSlots ds limit m).wf = true :=
  memSlots_wf h (tableMap_wf _ _ _ ((IndexMemory.wf_iff m).mp h).1)

theorem recoverArea_wf (ds : Four Descriptor) {m : IndexMemory} (h : m.wf = true) : (recoverArea ds m).wf = true :=
  memContainers_wf h (recoverContainers_wf _ _ _)

theorem stepIf_wf (b : Bool) {g : IndexMemory → IndexMemory} (hg : ∀ m, m.wf = true → (g m).wf = true)
    {m : IndexMemory} (h : m.wf = true) : (stepIf b g m).wf = true := by
  unfold stepIf
  split
  · exact hg m h
  · exact h

theorem cutRecovery_wf (ds : Four Descriptor) (w : WalkPoint) {m : IndexMemory} (h : m.wf = true) :
    (cutRecovery ds w m).wf = true :=
  stepIf_wf _ (fun _ => recoverArea_wf ds) <| stepIf_wf _ (fun _ => recoverSlots_wf ds _) <|
    stepIf_wf _ (fun _ => recoverSettings_wf) <| stepIf_wf _ (fun _ => recoverClock_wf) <|
      stepIf_wf _ (fun _ => recoverStartCount_wf) h

theorem formatSlots_wf (ds : Four Descriptor) (limit : Option Nat) {m : IndexMemory} (h : m.wf = true) :
    (formatSlots ds limit m).wf = true :=
  memSlots_wf h (tableFilter_wf _ _ _ ((IndexMemory.wf_iff m).mp h).1)

theorem formatArea_wf {m : IndexMemory} (h : m.wf = true) : (formatArea m).wf = true := memContainers_wf h rfl

theorem formatSettings_wf {m : IndexMemory} (h : m.wf = true) : (formatSettings m).wf = true := memSettings_wf h rfl

theorem formatHeader_wf (ds : Four Descriptor) (n : BitVec 16) {m : IndexMemory} (h : m.wf = true) :
    (formatHeader ds n m).wf = true := h

theorem cutFormat_wf (ds : Four Descriptor) (w : WalkPoint) {m : IndexMemory} (h : m.wf = true) :
    (cutFormat ds w m).wf = true :=
  stepIf_wf _ (fun _ => formatSettings_wf) <| stepIf_wf _ (fun _ => formatArea_wf) <| formatSlots_wf ds _ h

/-! ## Modules moved between two starts (R172) -/

theorem moduleSlotsAt_mem {a b : Nat} {t : List (Nat × SlotImage)} {e : Nat × SlotImage} (h : e ∈ moduleSlotsAt a b t) :
    b * Config.moduleSpan ≤ e.1 ∧ e.1 < (b + 1) * Config.moduleSpan := by
  unfold moduleSlotsAt at h
  obtain ⟨x, hx, rfl⟩ := List.mem_map.mp h
  have hx := (List.mem_filter.mp hx).2
  simp only [Bool.and_eq_true, decide_eq_true_eq, Nat.add_mul, Nat.one_mul] at hx ⊢
  generalize Config.moduleSpan = n at *
  omega

/-- A moved module's slots, each at its index (R172). -/
theorem moduleSlotsAt_get (a b j : Nat) (t : List (Nat × SlotImage)) (hj : j < Config.moduleSpan) :
    tableGet SlotImage.free (moduleSlotsAt a b t) (b * Config.moduleSpan + j) =
      tableGet SlotImage.free t (a * Config.moduleSpan + j) := by
  unfold moduleSlotsAt
  simp only [Nat.add_mul, Nat.one_mul]
  generalize Config.moduleSpan = n at *
  induction t with
  | nil => rfl
  | cons e t ih =>
    obtain ⟨k, v⟩ := e
    rw [List.filter_cons]
    split
    · next hp =>
      simp only [Bool.and_eq_true, decide_eq_true_eq] at hp
      simp only [List.map_cons, tableGet, ih]
      by_cases hk : k = a * n + j
      · rw [if_pos (by omega), if_pos hk]
      · rw [if_neg (by omega), if_neg hk]
    · next hp =>
      simp only [Bool.and_eq_true, decide_eq_true_eq] at hp
      rw [ih]
      simp only [tableGet]
      rw [if_neg (by omega)]

theorem moduleSlotsAt_wf (a b : Nat) {t : List (Nat × SlotImage)} (h : tableWf SlotImage.free t = true) :
    tableWf SlotImage.free (moduleSlotsAt a b t) = true := by
  have h' := tableFilter_wf SlotImage.free (fun e =>
    decide (a * Config.moduleSpan ≤ e.1) && decide (e.1 < (a + 1) * Config.moduleSpan)) t h
  rw [tableWf_iff] at h' ⊢
  unfold moduleSlotsAt
  refine ⟨?_, ?_⟩
  · rw [List.pairwise_map]
    refine h'.1.imp_of_mem ?_
    intro x y hx hy hxy
    have h1 := (List.mem_filter.mp hx).2
    have h2 := (List.mem_filter.mp hy).2
    simp only [Bool.and_eq_true, decide_eq_true_eq] at *
    omega
  · intro e he
    obtain ⟨x, hx, rfl⟩ := List.mem_map.mp he
    exact h'.2 x hx

theorem broughtSlots_mem {stood : Four (Option Port)} {t : List (Nat × SlotImage)} {p : Port} {e : Nat × SlotImage}
    (h : e ∈ broughtSlots stood t p) :
    portNumber p * Config.moduleSpan ≤ e.1 ∧ e.1 < (portNumber p + 1) * Config.moduleSpan := by
  unfold broughtSlots at h
  split at h
  · exact moduleSlotsAt_mem h
  · simp at h

theorem broughtSlots_wf (stood : Four (Option Port)) {t : List (Nat × SlotImage)} (p : Port)
    (h : tableWf SlotImage.free t = true) : tableWf SlotImage.free (broughtSlots stood t p) = true := by
  unfold broughtSlots
  split
  · exact moduleSlotsAt_wf _ _ h
  · rfl

theorem broughtSlots_get (stood : Four (Option Port)) (t : List (Nat × SlotImage)) (p : Port) (j : Nat)
    (hj : j < Config.moduleSpan) :
    tableGet SlotImage.free (broughtSlots stood t p) (portNumber p * Config.moduleSpan + j) =
      match fourGet stood p with
      | some q => tableGet SlotImage.free t (portNumber q * Config.moduleSpan + j)
      | none => SlotImage.free := by
  unfold broughtSlots
  cases fourGet stood p with
  | some q => exact moduleSlotsAt_get _ _ _ _ hj
  | none => rfl

theorem reservedOf_wf {m : IndexMemory} (h : m.wf = true) (p : Port) : (reservedOf m p).wf = true := by
  obtain ⟨-, hc, hn, h1, h2, h3⟩ := (IndexMemory.wf_iff m).mp h
  cases p
  · simp only [Reserved.wf, reservedOf, hc, hn, Bool.and_self]
  · exact h1
  · exact h2
  · exact h3

theorem broughtRegion_wf (stood : Four (Option Port)) {m : IndexMemory} (h : m.wf = true) (p : Port) :
    (broughtRegion stood m p).wf = true := by
  unfold broughtRegion
  split
  · exact reservedOf_wf h _
  · rfl

/-- A list over the four ports, each port's part within its module's span. -/
theorem flatMap_ports_get (g : Port → List (Nat × SlotImage))
    (hg : ∀ p, ∀ e ∈ g p, portNumber p * Config.moduleSpan ≤ e.1 ∧ e.1 < (portNumber p + 1) * Config.moduleSpan)
    (p : Port) (j : Nat) (hj : j < Config.moduleSpan) :
    tableGet SlotImage.free (allPorts.flatMap g) (portNumber p * Config.moduleSpan + j) =
      tableGet SlotImage.free (g p) (portNumber p * Config.moduleSpan + j) := by
  have ne : ∀ q, q ≠ p → ∀ e ∈ g q, e.1 ≠ portNumber p * Config.moduleSpan + j := by
    intro q hq e he
    have := hg q e he
    simp only [Config.moduleSpan] at *
    cases p <;> cases q <;> simp only [portNumber] at * <;> first | omega | exact absurd rfl hq
  simp only [allPorts, List.flatMap_cons, List.flatMap_nil, List.append_nil]
  cases p
  · rw [tableGet_append_right]
    intro e he
    simp only [List.mem_append] at he
    rcases he with he | he | he <;> exact ne _ (by decide) e he
  · rw [tableGet_append_left _ _ _ _ (ne .p0 (by decide)), tableGet_append_right]
    intro e he
    simp only [List.mem_append] at he
    rcases he with he | he <;> exact ne _ (by decide) e he
  · rw [tableGet_append_left _ _ _ _ (ne .p0 (by decide)), tableGet_append_left _ _ _ _ (ne .p1 (by decide)),
      tableGet_append_right _ _ _ _ (ne .p3 (by decide))]
  · rw [tableGet_append_left _ _ _ _ (ne .p0 (by decide)), tableGet_append_left _ _ _ _ (ne .p1 (by decide)),
      tableGet_append_left _ _ _ _ (ne .p2 (by decide))]

/-- The slot at each place after the modules are moved: that of the module that stands there now (R172). -/
theorem moveModules_get (stood : Four (Option Port)) (m : IndexMemory) (p : Port) (j : Nat)
    (hj : j < Config.moduleSpan) :
    tableGet SlotImage.free (moveModules stood m).slots (portNumber p * Config.moduleSpan + j) =
      match fourGet stood p with
      | some q => tableGet SlotImage.free m.slots (portNumber q * Config.moduleSpan + j)
      | none => SlotImage.free := by
  unfold moveModules
  split
  · next h => subst h; cases p <;> rfl
  · show tableGet _ (allPorts.flatMap _) _ = _
    rw [flatMap_ports_get _ (fun p e he => broughtSlots_mem he) p j hj]
    exact broughtSlots_get _ _ _ _ hj

/-- What each module holds beyond its slots moves with it (R172, R173). -/
theorem moveModules_reserved (stood : Four (Option Port)) (m : IndexMemory) (p : Port) :
    reservedOf (moveModules stood m) p = broughtRegion stood m p := by
  unfold moveModules
  split
  · next h => subst h; cases p <;> rfl
  · cases p <;> rfl

theorem moveModules_wf (stood : Four (Option Port)) {m : IndexMemory} (h : m.wf = true) :
    (moveModules stood m).wf = true := by
  unfold moveModules
  split
  · exact h
  · have hs := ((IndexMemory.wf_iff m).mp h).1
    have h0 := broughtRegion_wf stood h .p0
    simp only [Reserved.wf, Bool.and_eq_true] at h0
    rw [IndexMemory.wf_iff]
    refine ⟨?_, h0.1, h0.2, broughtRegion_wf stood h .p1, broughtRegion_wf stood h .p2, broughtRegion_wf stood h .p3⟩
    show tableWf _ (allPorts.flatMap _) = true
    simp only [allPorts, List.flatMap_cons, List.flatMap_nil, List.append_nil]
    have lt : ∀ q r, portNumber q < portNumber r → ∀ x ∈ broughtSlots stood m.slots q,
        ∀ y ∈ broughtSlots stood m.slots r, x.1 < y.1 := by
      intro q r hqr x hx y hy
      have h1 := broughtSlots_mem hx
      have h2 := broughtSlots_mem hy
      simp only [Config.moduleSpan] at *
      omega
    have w := fun p => broughtSlots_wf stood p hs
    refine tableWf_append _ (w _) (tableWf_append _ (w _) (tableWf_append _ (w _) (w _) ?_) ?_) ?_
    · exact lt _ _ (by decide)
    · intro x hx y hy
      rcases List.mem_append.mp hy with hy | hy
      · exact lt _ _ (by decide) x hx y hy
      · exact lt _ _ (by decide) x hx y hy
    · intro x hx y hy
      simp only [List.mem_append] at hy
      rcases hy with hy | hy | hy
      · exact lt _ _ (by decide) x hx y hy
      · exact lt _ _ (by decide) x hx y hy
      · exact lt _ _ (by decide) x hx y hy
/-! ## All tables -/

/-- The tables of two states are the same. -/
theorem TablesOk.of_same {s t : State} (h : TablesOk s) (hm : t.mem = s.mem) (hc : t.clu.claims = s.clu.claims)
    (hb : t.bte.contexts = s.bte.contexts) (hn : t.nst = s.nst) (hl : t.stu.live = s.stu.live)
    (hs : t.stu.snap = s.stu.snap) : TablesOk t := by
  unfold TablesOk at *; rw [hm, hc, hb, hn, hl, hs]; exact h

/-- Index memory replaced by one in canonical form, the other tables the same. -/
theorem TablesOk.withMem {s t : State} (h : TablesOk s) (hm : t.mem.wf = true) (hc : t.clu.claims = s.clu.claims)
    (hb : t.bte.contexts = s.bte.contexts) (hn : t.nst = s.nst) (hl : t.stu.live = s.stu.live)
    (hs : t.stu.snap = s.stu.snap) : TablesOk t := by
  unfold TablesOk at *; rw [hc, hb, hn, hl, hs]; exact ⟨hm, h.2⟩

theorem slotPut_tablesOk {s : State} (n : Nat) (im : SlotImage) (h : TablesOk s) : TablesOk (slotPut n im s) :=
  h.withMem (memSlots_wf h.1 (tableSet_wf _ _ _ _ ((IndexMemory.wf_iff _).mp h.1).1)) rfl rfl rfl rfl rfl

theorem containerPut_tablesOk {s : State} (c : Nat) (r : ContainerRec) (h : TablesOk s) :
    TablesOk (containerPut c r s) :=
  h.withMem (memContainers_wf h.1 (tableSet_wf _ _ _ _ ((IndexMemory.wf_iff _).mp h.1).2.1)) rfl rfl rfl rfl rfl

theorem updMem_tablesOk {s : State} {g : IndexMemory → IndexMemory} (hg : ∀ m, m.wf = true → (g m).wf = true)
    (h : TablesOk s) : TablesOk (updMem g s) :=
  h.withMem (hg _ h.1) rfl rfl rfl rfl rfl

theorem claimPut_tablesOk {s : State} (n : Nat) (r : ClaimRec) (h : TablesOk s) : TablesOk (claimPut n r s) :=
  ⟨h.1, tableSet_wf _ _ _ _ h.2.1, h.2.2⟩

theorem contextPut_tablesOk {s : State} (n : Nat) (c : Context) (h : TablesOk s) : TablesOk (contextPut n c s) :=
  ⟨h.1, h.2.1, tableSet_wf _ _ _ _ h.2.2.1, h.2.2.2⟩

theorem removeWaiters_tablesOk {s : State} (gone : Waiter → Bool) (h : TablesOk s) :
    TablesOk (removeWaiters gone s) := by
  have ht := tableMap_wf ClaimRec.zero (fun _ (r : ClaimRec) => { r with waiters := r.waiters.filter (fun w => !gone w) }) _ h.2.1
  exact ⟨h.1, ht, h.2.2⟩

theorem countOne_tablesOk {s : State} (k n : Nat) (h : TablesOk s) : TablesOk (countOne k n s) := by
  have hl : tableWf Counter.zero (tableSet Counter.zero s.stu.live k (counterAdd (tableGet Counter.zero s.stu.live k) n)) =
    true := tableSet_wf _ _ _ _ h.2.2.2.2.1
  unfold countOne
  dsimp only
  split
  · exact ⟨h.1, h.2.1, h.2.2.1, h.2.2.2.1, hl, h.2.2.2.2.2⟩
  · exact ⟨h.1, h.2.1, h.2.2.1, h.2.2.2.1, hl, h.2.2.2.2.2⟩

theorem takeSnapshot_tablesOk {s : State} (h : TablesOk s) : TablesOk (takeSnapshot s) :=
  ⟨h.1, h.2.1, h.2.2.1, h.2.2.2.1, rfl, h.2.2.2.2.1⟩

end Sys2Proof.Machine
end

