-- ==== Sys2Proof/Laws/PerInstr.lean ====
section
/-! SUPPORT. The law stated of every command: the frame a well-formed command carries crosses the link whole. -/

namespace Sys2Proof

/-- The frame a step carries. -/
def RequestStep.frame : RequestStep → Option RequestFrame
  | .whole f => some f
  | .arrive f => some f
  | .take _ => none

/-- The frame a container request's step carries. -/
def ContainerStep.frame : ContainerStep → Option RequestFrame
  | .request r => r.frame
  | .fix _ => none
  | .hand _ => none

/-- The frame a SET_PARAMETER's step carries. -/
def ParameterStep.frame : ParameterStep → Option RequestFrame
  | .request r => r.frame
  | .write _ => none
  | .own _ => none
  | .unit _ => none

/-- The frame a command carries; none for a command without one. -/
def Instr.frame : Instr → Option RequestFrame
  | .powerOn _ => none
  | .recovery => none
  | .badFrame _ _ => none
  | .frameDiscardedListFull _ _ => none
  | .responseTransmitted _ => none
  | .identify _ r => r.frame
  | .portStatus _ r => r.frame
  | .indexStatus _ r => r.frame
  | .containerStatus _ r => r.frame
  | .findEmpty _ r => r.frame
  | .events _ r => r.frame
  | .setEventMask _ r => r.frame
  | .stats _ r => r.frame
  | .getParameter _ r => r.frame
  | .setParameter _ r => r.frame
  | .lookup _ f => some f
  | .probe _ f => some f
  | .ref _ f => some f
  | .release _ f => some f
  | .move _ f => some f
  | .readSlot _ f => some f
  | .drop _ f => some f
  | .restore _ f => some f
  | .lookupOperation _ _ => none
  | .probeOperation _ _ => none
  | .refOperation _ _ => none
  | .releaseOperation _ _ => none
  | .moveOperation _ _ => none
  | .readSlotOperation _ _ => none
  | .dropOperation _ _ => none
  | .restoreOperation _ _ => none
  | .commit _ r => r.frame
  | .commitEntryUpdate _ => none
  | .abandon _ r => r.frame
  | .freeingUpdate _ => none
  | .claimExpiry _ => none
  | .cancel _ r => r.frame
  | .openContainer _ r => r.frame
  | .closeContainer _ r => r.frame
  | .reclaim _ r => r.frame
  | .lookupBatch _ r => r.frame
  | .probeBatch _ r => r.frame
  | .releaseBatch _ r => r.frame
  | .batchItemOperation _ => none
  | .itemAnswer => none
  | .batchCancellation => none
  | .withdrawalRequest => none
  | .withdrawalAnswer => none
  | .sweeperBucketOperation _ => none
  | .millisecondTick _ => none
  | .loss _ => none
  | .persistenceMet _ => none
  | .firstSymbol _ => none
  | .admitPort _ r => r.frame
  | .evict _ r => r.frame
  | .ctuTeardown _ => none
  | .bteTeardown _ => none
  | .cluTeardown _ => none
  | .teardownCompletion => none
  | .setNamespace _ r => r.frame
  | .setPort _ r => r.frame
  | .snapshot _ r => r.frame
  | .intervalEnd => none
  | .indexClockAdvance => none
  | .clockSave => none
  | .format _ r => r.frame
  | .formatAfterOperation => none
  | .formatWalk => none
  | .restart _ r => r.frame
  | .restartReset _ _ => none
  | .silenceEnd => none
  | .powerLoss _ => none
  | .unknownKindCode _ _ f => some f

namespace Laws.CommandWellFormed

/-- The frame of a well-formed command, under any kind code, is neither too short nor overlong on the link (R131, R180). -/
def Statement (i : Instr) : Prop :=
  i.wf = true → ∀ f, i.frame = some f → ∀ code,
    Config.frameMin ≤ (Machine.requestBytes code f).length ∧ (Machine.requestBytes code f).length < Config.frameLimit

theorem beBytes_length (n v : Nat) : (Machine.beBytes n v).length = n := by
  induction n generalizing v with
  | zero => rfl
  | succ n ih => simp [Machine.beBytes, ih]

theorem frame_whole {f : RequestFrame} (h : f.wf = true) (code : Byte) :
    Config.frameMin ≤ (Machine.requestBytes code f).length ∧ (Machine.requestBytes code f).length < Config.frameLimit := by
  have hl : (Machine.requestBytes code f).length = 8 + f.body.length + 4 := by
    simp only [Machine.requestBytes, Machine.withFrameCheck, List.length_append, beBytes_length, List.length_cons,
      List.length_nil]
  simp only [RequestFrame.wf, decide_eq_true_eq] at h
  rw [hl]
  exact ⟨by unfold Config.frameMin; omega, h⟩

/-- A step's frame is well formed where the step is. -/
theorem step_whole {r : RequestStep} {f : RequestFrame} (h : r.wf = true) (hf : r.frame = some f) : f.wf = true := by
  cases r <;> simp only [RequestStep.frame, Option.some.injEq, reduceCtorEq] at hf
  all_goals (subst hf; exact h)

/-- A container request's frame is well formed where its step is. -/
theorem container_whole {r : ContainerStep} {f : RequestFrame} (h : r.wf = true) (hf : r.frame = some f) : f.wf = true := by
  cases r with
  | request r => exact step_whole (r := r) h hf
  | fix _ => cases hf
  | hand _ => cases hf

/-- A SET_PARAMETER's frame is well formed where its step is. -/
theorem parameter_whole {r : ParameterStep} {f : RequestFrame} (h : r.wf = true) (hf : r.frame = some f) : f.wf = true := by
  cases r with
  | request r => exact step_whole (r := r) h hf
  | write _ => cases hf
  | own _ => cases hf
  | unit _ => cases hf

theorem powerOn (inputs : StartInputs) : Statement (.powerOn inputs) :=
  fun _ _ hf => nomatch hf

theorem recovery : Statement .recovery :=
  fun _ _ hf => nomatch hf

theorem badFrame (p : Port) (r : Reception) : Statement (.badFrame p r) :=
  fun _ _ hf => nomatch hf

theorem frameDiscardedListFull (p : Port) (r : Reception) : Statement (.frameDiscardedListFull p r) :=
  fun _ _ hf => nomatch hf

theorem responseTransmitted (p : Port) : Statement (.responseTransmitted p) :=
  fun _ _ hf => nomatch hf

theorem identify (p : Port) (r : RequestStep) : Statement (.identify p r) :=
  fun h _ hf c => frame_whole (step_whole (r := r) h hf) c

theorem portStatus (p : Port) (r : RequestStep) : Statement (.portStatus p r) :=
  fun h _ hf c => frame_whole (step_whole (r := r) h hf) c

theorem indexStatus (p : Port) (r : RequestStep) : Statement (.indexStatus p r) :=
  fun h _ hf c => frame_whole (step_whole (r := r) h hf) c

theorem containerStatus (p : Port) (r : ContainerStep) : Statement (.containerStatus p r) :=
  fun h _ hf c => frame_whole (container_whole (r := r) h hf) c

theorem findEmpty (p : Port) (r : ContainerStep) : Statement (.findEmpty p r) :=
  fun h _ hf c => frame_whole (container_whole (r := r) h hf) c

theorem events (p : Port) (r : RequestStep) : Statement (.events p r) :=
  fun h _ hf c => frame_whole (step_whole (r := r) h hf) c

theorem setEventMask (p : Port) (r : RequestStep) : Statement (.setEventMask p r) :=
  fun h _ hf c => frame_whole (step_whole (r := r) h hf) c

theorem stats (p : Port) (r : RequestStep) : Statement (.stats p r) :=
  fun h _ hf c => frame_whole (step_whole (r := r) h hf) c

theorem getParameter (p : Port) (r : RequestStep) : Statement (.getParameter p r) :=
  fun h _ hf c => frame_whole (step_whole (r := r) h hf) c

theorem setParameter (p : Port) (r : ParameterStep) : Statement (.setParameter p r) :=
  fun h _ hf c => frame_whole (parameter_whole (r := r) h hf) c

theorem lookup (p : Port) (f : RequestFrame) : Statement (.lookup p f) :=
  fun h _ hf c => frame_whole (Option.some.inj hf ▸ h) c

theorem probe (p : Port) (f : RequestFrame) : Statement (.probe p f) :=
  fun h _ hf c => frame_whole (Option.some.inj hf ▸ h) c

theorem ref (p : Port) (f : RequestFrame) : Statement (.ref p f) :=
  fun h _ hf c => frame_whole (Option.some.inj hf ▸ h) c

theorem release (p : Port) (f : RequestFrame) : Statement (.release p f) :=
  fun h _ hf c => frame_whole (Option.some.inj hf ▸ h) c

theorem move (p : Port) (f : RequestFrame) : Statement (.move p f) :=
  fun h _ hf c => frame_whole (Option.some.inj hf ▸ h) c

theorem readSlot (p : Port) (f : RequestFrame) : Statement (.readSlot p f) :=
  fun h _ hf c => frame_whole (Option.some.inj hf ▸ h) c

theorem drop (p : Port) (f : RequestFrame) : Statement (.drop p f) :=
  fun h _ hf c => frame_whole (Option.some.inj hf ▸ h) c

theorem restore (p : Port) (f : RequestFrame) : Statement (.restore p f) :=
  fun h _ hf c => frame_whole (Option.some.inj hf ▸ h) c

theorem lookupOperation (p : Port) (st : OpStep) : Statement (.lookupOperation p st) :=
  fun _ _ hf => nomatch hf

theorem probeOperation (p : Port) (st : OpStep) : Statement (.probeOperation p st) :=
  fun _ _ hf => nomatch hf

theorem refOperation (p : Port) (st : OpStep) : Statement (.refOperation p st) :=
  fun _ _ hf => nomatch hf

theorem releaseOperation (p : Port) (st : OpStep) : Statement (.releaseOperation p st) :=
  fun _ _ hf => nomatch hf

theorem moveOperation (p : Port) (st : OpStep) : Statement (.moveOperation p st) :=
  fun _ _ hf => nomatch hf

theorem readSlotOperation (p : Port) (st : OpStep) : Statement (.readSlotOperation p st) :=
  fun _ _ hf => nomatch hf

theorem dropOperation (p : Port) (st : OpStep) : Statement (.dropOperation p st) :=
  fun _ _ hf => nomatch hf

theorem restoreOperation (p : Port) (st : OpStep) : Statement (.restoreOperation p st) :=
  fun _ _ hf => nomatch hf

theorem commit (p : Port) (r : RequestStep) : Statement (.commit p r) :=
  fun h _ hf c => frame_whole (step_whole (r := r) h hf) c

theorem commitEntryUpdate (st : OpStep) : Statement (.commitEntryUpdate st) :=
  fun _ _ hf => nomatch hf

theorem abandon (p : Port) (r : RequestStep) : Statement (.abandon p r) :=
  fun h _ hf c => frame_whole (step_whole (r := r) h hf) c

theorem freeingUpdate (st : OpStep) : Statement (.freeingUpdate st) :=
  fun _ _ hf => nomatch hf

theorem claimExpiry (n : Nat) : Statement (.claimExpiry n) :=
  fun _ _ hf => nomatch hf

theorem cancel (p : Port) (r : RequestStep) : Statement (.cancel p r) :=
  fun h _ hf c => frame_whole (step_whole (r := r) h hf) c

theorem openContainer (p : Port) (r : ContainerStep) : Statement (.openContainer p r) :=
  fun h _ hf c => frame_whole (container_whole (r := r) h hf) c

theorem closeContainer (p : Port) (r : ContainerStep) : Statement (.closeContainer p r) :=
  fun h _ hf c => frame_whole (container_whole (r := r) h hf) c

theorem reclaim (p : Port) (r : ContainerStep) : Statement (.reclaim p r) :=
  fun h _ hf c => frame_whole (container_whole (r := r) h hf) c

theorem lookupBatch (p : Port) (r : RequestStep) : Statement (.lookupBatch p r) :=
  fun h _ hf c => frame_whole (step_whole (r := r) h hf) c

theorem probeBatch (p : Port) (r : RequestStep) : Statement (.probeBatch p r) :=
  fun h _ hf c => frame_whole (step_whole (r := r) h hf) c

theorem releaseBatch (p : Port) (r : RequestStep) : Statement (.releaseBatch p r) :=
  fun h _ hf c => frame_whole (step_whole (r := r) h hf) c

theorem batchItemOperation (st : OpStep) : Statement (.batchItemOperation st) :=
  fun _ _ hf => nomatch hf

theorem itemAnswer : Statement .itemAnswer :=
  fun _ _ hf => nomatch hf

theorem batchCancellation : Statement .batchCancellation :=
  fun _ _ hf => nomatch hf

theorem withdrawalRequest : Statement .withdrawalRequest :=
  fun _ _ hf => nomatch hf

theorem withdrawalAnswer : Statement .withdrawalAnswer :=
  fun _ _ hf => nomatch hf

theorem sweeperBucketOperation (st : OpStep) : Statement (.sweeperBucketOperation st) :=
  fun _ _ hf => nomatch hf

theorem millisecondTick (symbols : Four Bool) : Statement (.millisecondTick symbols) :=
  fun _ _ hf => nomatch hf

theorem loss (p : Port) : Statement (.loss p) :=
  fun _ _ hf => nomatch hf

theorem persistenceMet (p : Port) : Statement (.persistenceMet p) :=
  fun _ _ hf => nomatch hf

theorem firstSymbol (p : Port) : Statement (.firstSymbol p) :=
  fun _ _ hf => nomatch hf

theorem admitPort (p : Port) (r : RequestStep) : Statement (.admitPort p r) :=
  fun h _ hf c => frame_whole (step_whole (r := r) h hf) c

theorem evict (p : Port) (r : RequestStep) : Statement (.evict p r) :=
  fun h _ hf c => frame_whole (step_whole (r := r) h hf) c

theorem ctuTeardown (p : Port) : Statement (.ctuTeardown p) :=
  fun _ _ hf => nomatch hf

theorem bteTeardown (p : Port) : Statement (.bteTeardown p) :=
  fun _ _ hf => nomatch hf

theorem cluTeardown (p : Port) : Statement (.cluTeardown p) :=
  fun _ _ hf => nomatch hf

theorem teardownCompletion : Statement .teardownCompletion :=
  fun _ _ hf => nomatch hf

theorem setNamespace (p : Port) (r : RequestStep) : Statement (.setNamespace p r) :=
  fun h _ hf c => frame_whole (step_whole (r := r) h hf) c

theorem setPort (p : Port) (r : RequestStep) : Statement (.setPort p r) :=
  fun h _ hf c => frame_whole (step_whole (r := r) h hf) c

theorem snapshot (p : Port) (r : RequestStep) : Statement (.snapshot p r) :=
  fun h _ hf c => frame_whole (step_whole (r := r) h hf) c

theorem intervalEnd : Statement .intervalEnd :=
  fun _ _ hf => nomatch hf

theorem indexClockAdvance : Statement .indexClockAdvance :=
  fun _ _ hf => nomatch hf

theorem clockSave : Statement .clockSave :=
  fun _ _ hf => nomatch hf

theorem format (p : Port) (r : RequestStep) : Statement (.format p r) :=
  fun h _ hf c => frame_whole (step_whole (r := r) h hf) c

theorem formatAfterOperation : Statement .formatAfterOperation :=
  fun _ _ hf => nomatch hf

theorem formatWalk : Statement .formatWalk :=
  fun _ _ hf => nomatch hf

theorem restart (p : Port) (r : RequestStep) : Statement (.restart p r) :=
  fun h _ hf c => frame_whole (step_whole (r := r) h hf) c

theorem restartReset (inputs : StartInputs) (w : WalkPoint) : Statement (.restartReset inputs w) :=
  fun _ _ hf => nomatch hf

theorem silenceEnd : Statement .silenceEnd :=
  fun _ _ hf => nomatch hf

theorem powerLoss (w : WalkPoint) : Statement (.powerLoss w) :=
  fun _ _ hf => nomatch hf

theorem unknownKindCode (p : Port) (code : Byte) (f : RequestFrame) : Statement (.unknownKindCode p code f) :=
  fun h _ hf c => by
  simp only [Instr.wf, Bool.and_eq_true] at h
  exact frame_whole (Option.some.inj hf ▸ h.1) c

end Laws.CommandWellFormed

end Sys2Proof
end

