-- ==== Sys2Proof/Laws/Ports.lean ====
section
/-! SUPPORT. Every shared operation keeps the port units as the rules keep them (PortsOk). -/

namespace Sys2Proof.Machine

/-! ## One port unit -/

theorem unitRaise_ok {u : PortUnit} (k : EventKind) (h : UnitOk u) : UnitOk (unitRaise k u) := by
  unfold unitRaise
  split
  · exact h
  · next hd =>
    obtain ⟨-, -, hq, hl⟩ := h
    exact ⟨rfl, fun hs => absurd hs hd, hq, hl⟩

theorem unitSignalOccupancy_ok {u : PortUnit} (v : Bool) (h : UnitOk u) : UnitOk (unitSignalOccupancy v u) := by
  unfold unitSignalOccupancy
  split
  · exact unitRaise_ok _ h
  · exact h

theorem unitSignalLow_ok {u : PortUnit} (v : Bool) (h : UnitOk u) : UnitOk (unitSignalLow v u) := by
  unfold unitSignalLow
  split
  · exact unitRaise_ok _ h
  · exact h

/-- A change of a port unit that leaves what UnitOk reads keeps it. -/
theorem UnitOk.congr {u v : PortUnit} (h : UnitOk u) (ha : v.attn = u.attn) (he : v.events = u.events)
    (hm : v.mask = u.mask) (hs : v.state = u.state) (hq : v.queue = u.queue) (hr : v.responses = u.responses)
    (hquiet : v.quiet = u.quiet) (hp : v.persistence = u.persistence) : UnitOk v := by
  unfold UnitOk AttnOk DownOk QueueOk LinkOk at *
  rw [ha, he, hm, hs, hq, hr, hquiet, hp]
  exact h

/-- A port unit that has left or is not in DOWN, its queue and responses kept. -/
theorem UnitOk.withState {u v : PortUnit} (h : UnitOk u) (ha : v.attn = u.attn) (he : v.events = u.events)
    (hm : v.mask = u.mask) (hs : v.state ≠ .down) (hq : v.queue = u.queue) (hr : v.responses = u.responses)
    (hquiet : v.quiet ≤ 15) (hp : v.persistence ≤ 100) : UnitOk v := by
  obtain ⟨hA, -, hQ, -⟩ := h
  refine ⟨?_, fun hd => absurd hd hs, ?_, hquiet, hp⟩
  · unfold AttnOk at *; rw [ha, he, hm]; exact hA
  · unfold QueueOk at *; rw [hq, hr]; exact hQ

theorem unitDown_ok {u : PortUnit} (silenced : Bool) : UnitOk (unitDown silenced u) :=
  ⟨rfl, fun _ => ⟨rfl, rfl, rfl⟩, ⟨by simp [unitDown, unitAttn], by simp [unitDown, unitAttn],
    by simp [unitDown, unitAttn]⟩, by simp [unitDown, unitAttn, LinkOk]⟩

theorem unitTeardown_ok {u : PortUnit} (h : UnitOk u) : UnitOk (unitTeardown u) :=
  h.congr rfl rfl rfl rfl rfl rfl rfl rfl

theorem reset_unitOk (privilege : BitVec 2) : UnitOk (PortUnit.reset privilege) := by
  refine ⟨?_, fun _ => ⟨rfl, rfl, rfl⟩, ⟨by simp [PortUnit.reset], by simp [PortUnit.reset],
    by simp [PortUnit.reset]⟩, by simp [PortUnit.reset, LinkOk]⟩
  simp [PortUnit.reset, AttnOk]

/-- A port unit with the entries of its queue changed, each keeping its tag. -/
theorem UnitOk.mapQueue {u : PortUnit} (h : UnitOk u) (g : QEntry → QEntry) (hg : ∀ e, (g e).tag = e.tag) :
    UnitOk { u with queue := u.queue.map g } := by
  obtain ⟨hA, hD, hQ, hL⟩ := h
  refine ⟨hA, fun hd => ?_, ?_, hL⟩
  · obtain ⟨h1, h2, h3⟩ := hD hd
    exact ⟨by simp [h1], h2, h3⟩
  · unfold QueueOk at *
    have ht : ((u.queue.map g).map fun e => e.tag) = u.queue.map fun e => e.tag := by
      rw [List.map_map]; congr 1; funext e; exact hg e
    simp only [ht, List.length_map]
    exact hQ

/-- A queued request answered. -/
theorem UnitOk.answered {u : PortUnit} (h : UnitOk u) {tag : Tag} (r : Response)
    (hin : ∃ e ∈ u.queue, e.tag = tag) :
    UnitOk { u with queue := u.queue.filter (fun x => decide (x.tag ≠ tag)), responses := u.responses ++ [r] } := by
  obtain ⟨hA, hD, ⟨hlen, hnd, hsum⟩, hL⟩ := h
  obtain ⟨e, he, ht⟩ := hin
  have hlt : (u.queue.filter (fun x => decide (x.tag ≠ tag))).length < u.queue.length :=
    List.length_filter_lt_length_iff_exists.mpr ⟨e, he, by simp [ht]⟩
  refine ⟨hA, fun hd => ?_, ⟨?_, ?_, ?_⟩, hL⟩
  · rw [(hD hd).1] at he; simp at he
  · simp only; omega
  · exact hnd.sublist (List.filter_sublist.map _)
  · simp only [List.length_append, List.length_singleton]; omega

/-! ## Every port unit -/

theorem PortsOk.of_ports {s t : State} (h : PortsOk s) (e : t.ports = s.ports) : PortsOk t := by
  intro p; rw [show portUnit t p = portUnit s p by simp [portUnit, e]]; exact h p

theorem updPort_portsOk {s : State} (h : PortsOk s) (p : Port) {g : PortUnit → PortUnit}
    (hg : UnitOk (portUnit s p) → UnitOk (g (portUnit s p))) : PortsOk (updPort p g s) := by
  intro q
  rw [portUnit_updPort]
  split
  · exact hg (h p)
  · exact h q

theorem updPorts_portsOk {s : State} (h : PortsOk s) {g : Port → PortUnit → PortUnit}
    (hg : ∀ p, UnitOk (portUnit s p) → UnitOk (g p (portUnit s p))) : PortsOk (updPorts g s) := by
  intro p
  rw [portUnit_updPorts]
  exact hg p (h p)

theorem raiseTo_portsOk {s : State} (p : Port) (k : EventKind) (h : PortsOk s) : PortsOk (raiseTo p k s) :=
  updPort_portsOk h p (unitRaise_ok k)

theorem raiseAll_portsOk {s : State} (k : EventKind) (h : PortsOk s) : PortsOk (raiseAll k s) :=
  updPorts_portsOk h fun _ => unitRaise_ok k

theorem raiseOthers_portsOk {s : State} (p : Port) (k : EventKind) (h : PortsOk s) : PortsOk (raiseOthers p k s) := by
  refine updPorts_portsOk h fun q hq => ?_
  split
  · exact hq
  · exact unitRaise_ok k hq

theorem evalOccupancy_portsOk {s : State} (h : PortsOk s) : PortsOk (evalOccupancy s) := by
  unfold evalOccupancy
  split
  · exact h
  · exact updPorts_portsOk (h.of_ports rfl) fun _ hq => unitSignalOccupancy_ok _ hq

theorem setOccupancy_portsOk {s : State} (n : Nat) (h : PortsOk s) : PortsOk (setOccupancy n s) :=
  evalOccupancy_portsOk (h.of_ports rfl)

theorem evalContainersLow_portsOk {s : State} (h : PortsOk s) : PortsOk (evalContainersLow s) := by
  unfold evalContainersLow
  split
  · exact h
  · exact updPorts_portsOk (h.of_ports rfl) fun _ hq => unitSignalLow_ok _ hq

theorem countOne_portsOk {s : State} (k n : Nat) (h : PortsOk s) : PortsOk (countOne k n s) := by
  unfold countOne
  dsimp only
  split
  · exact raiseAll_portsOk _ (h.of_ports rfl)
  · exact h.of_ports rfl

theorem countNs_portsOk {s : State} (ns : Nat) (c : NsCounter) (n : Nat) (h : PortsOk s) :
    PortsOk (countNs ns c n s) := by
  unfold countNs
  split
  · exact countOne_portsOk _ _ h
  · exact h

theorem countPort_portsOk {s : State} (p : Port) (c : PortCounter) (n : Nat) (h : PortsOk s) :
    PortsOk (countPort p c n s) := countOne_portsOk _ _ h

theorem takeSnapshot_portsOk {s : State} (h : PortsOk s) : PortsOk (takeSnapshot s) :=
  raiseAll_portsOk _ (h.of_ports rfl)

theorem updEntry_portsOk {s : State} (p : Port) (tag : Tag) {g : QEntry → QEntry} (hg : ∀ e, (g e).tag = e.tag)
    (h : PortsOk s) : PortsOk (updEntry p tag g s) := by
  refine updPort_portsOk h p fun hu => hu.mapQueue _ fun e => ?_
  split
  · exact hg e
  · rfl

theorem markTaken_portsOk {s : State} (p : Port) (tag : Tag) (h : PortsOk s) : PortsOk (markTaken p tag s) :=
  updEntry_portsOk p tag (fun _ => rfl) h

theorem seeSymbols_portsOk {s : State} (p : Port) (h : PortsOk s) : PortsOk (seeSymbols p s) :=
  updPort_portsOk h p fun hu => hu.congr rfl rfl rfl rfl rfl rfl rfl rfl

theorem answer_portsOk {s : State} (p : Port) (tag : Tag) (mark : Session) (a : Answer) (h : PortsOk s) :
    PortsOk (answer p tag mark a s) := by
  unfold answer
  split
  · exact h
  · next e he =>
    split
    · exact h
    · split
      · exact markTaken_portsOk p tag h
      · refine updPort_portsOk h p fun hu => hu.answered _ ⟨e, ?_, ?_⟩
        · exact List.mem_of_find?_eq_some he
        · simpa using List.find?_some he

theorem answerEntry_portsOk {s : State} (p : Port) (e : QEntry) (a : Answer) (h : PortsOk s) :
    PortsOk (answerEntry p e a s) := answer_portsOk _ _ _ _ h

theorem repairUnclaimed_portsOk {s : State} (n : Nat) (h : PortsOk s) : PortsOk (repairUnclaimed n s) := by
  unfold repairUnclaimed
  dsimp only
  repeat' split
  all_goals
    first
    | exact raiseAll_portsOk _ (h.of_ports rfl)
    | exact raiseAll_portsOk _ (setOccupancy_portsOk _ (h.of_ports rfl))

theorem verifySlot_portsOk {s : State} (n : Nat) (h : PortsOk s) : PortsOk (verifySlot n s) := by
  unfold verifySlot
  repeat' split
  · exact h
  · exact h.of_ports rfl
  · exact repairUnclaimed_portsOk _ h

theorem searchFrom_portsOk {s : State} (fp : Fingerprint) (ns : List Nat) (h : PortsOk s) :
    PortsOk (searchFrom fp ns s).1 := by
  induction ns generalizing s with
  | nil => unfold searchFrom; exact h
  | cons n rest ih =>
    unfold searchFrom
    split
    · exact verifySlot_portsOk n h
    · exact ih (verifySlot_portsOk n h)

theorem searchIndex_portsOk {s : State} (fp : Fingerprint) (h : PortsOk s) : PortsOk (searchIndex fp s).1 :=
  searchFrom_portsOk _ _ h

theorem answerWaiter_portsOk {s : State} (w : Waiter) (o : IndexOutcome) (h : PortsOk s) :
    PortsOk (answerWaiter w o s) := by
  unfold answerWaiter
  split
  · exact answer_portsOk _ _ _ _ h
  · exact h.of_ports rfl

theorem handOver_portsOk {s : State} (n : Nat) (w : Waiter) (rest : List Waiter) (h : PortsOk s) :
    PortsOk (handOver n w rest s) :=
  answerWaiter_portsOk _ _ (countNs_portsOk _ _ _ (h.of_ports rfl))

theorem releaseClaim_portsOk {s : State} (n : Nat) (h : PortsOk s) : PortsOk (releaseClaim n s) := by
  unfold releaseClaim
  split
  · exact h.of_ports rfl
  · exact handOver_portsOk _ _ _ h

theorem expireClaim_portsOk {s : State} (n : Nat) (h : PortsOk s) : PortsOk (expireClaim n s) := by
  unfold expireClaim
  split
  · exact releaseClaim_portsOk _ h
  · exact releaseClaim_portsOk _ (countPort_portsOk _ _ _ (raiseTo_portsOk _ _ h))

theorem enterOnline_portsOk {s : State} (p : Port) (h : PortsOk s) : PortsOk (enterOnline p s) := by
  refine raiseOthers_portsOk _ _ (updPort_portsOk h p fun hu => ?_)
  exact hu.withState rfl rfl rfl (by simp) rfl rfl hu.2.2.2.1 hu.2.2.2.2

theorem evalAdmission_portsOk {s : State} (p : Port) (h : PortsOk s) : PortsOk (evalAdmission p s) := by
  unfold evalAdmission
  split
  · exact enterOnline_portsOk p h
  · exact h

theorem evalAdmissions_portsOk {s : State} (h : PortsOk s) : PortsOk (evalAdmissions s) := by
  simp only [evalAdmissions, allPorts, List.foldl_cons, List.foldl_nil]
  exact evalAdmission_portsOk _ (evalAdmission_portsOk _ (evalAdmission_portsOk _ (evalAdmission_portsOk _ h)))

theorem dropWaitingFormat_portsOk {s : State} (p : Port) (h : PortsOk s) : PortsOk (dropWaitingFormat p s) := by
  unfold dropWaitingFormat
  repeat' split
  all_goals exact h

theorem takeLoss_portsOk {s : State} (p : Port) (h : PortsOk s) : PortsOk (takeLoss p s) := by
  unfold takeLoss
  split
  · exact h
  · exact updPort_portsOk h p fun _ => unitDown_ok _
  · exact raiseOthers_portsOk _ _ (dropWaitingFormat_portsOk _
      (updPort_portsOk h p fun _ => unitTeardown_ok (unitDown_ok _)))

theorem takeEviction_portsOk {s : State} (p : Port) (h : PortsOk s) : PortsOk (takeEviction p s) := by
  refine raiseTo_portsOk _ _ (raiseOthers_portsOk _ _ (dropWaitingFormat_portsOk _ (updPort_portsOk h p fun hu => ?_)))
  obtain ⟨hA, -, hQ, hL⟩ := hu
  refine ⟨hA, fun hd => by simp [unitTeardown] at hd, ⟨by simp [unitTeardown], by simp [unitTeardown], ?_⟩, hL⟩
  have := hQ.2.2
  simp only [unitTeardown, List.length_nil]
  omega

theorem presentItem_portsOk {s : State} (h : PortsOk s) : PortsOk (presentItem s) :=
  h.of_ports (by simp)

/-- The arrival of a frame keeps the port units: a port that takes frames has room for a response (R143). -/
theorem tryAdmit_portsOk {s : State} (p : Port) (code : Byte) (k : Option Kind) (f : RequestFrame) (h : PortsOk s)
    (hd : (portUnit s p).state ≠ .down) (hr : (portUnit s p).responses.length < 32) :
    PortsOk (tryAdmit p code k f s).1 := by
  have hresp : ∀ t : State, PortsOk t → (portUnit t p).state ≠ .down → (portUnit t p).responses.length < 32 →
      ∀ r, PortsOk (respond p r t) := by
    intro t ht hd hr r
    refine updPort_portsOk ht p fun hu => ?_
    obtain ⟨hA, -, ⟨h1, h2, h3⟩, hL⟩ := hu
    refine ⟨hA, fun hs => absurd hs hd, ⟨h1, h2, ?_⟩, hL⟩
    simp only [List.length_append, List.length_singleton]; omega
  unfold tryAdmit
  dsimp only
  split
  · have hn := countPort_notices p .queueFulls 1 s p
    exact hresp _ (countPort_portsOk _ _ _ h) (by rw [hn.state]; exact hd) (by rw [hn.responses]; exact hr) _
  · next hroom =>
    split
    · exact hresp _ h hd hr _
    · next htag =>
      split
      · exact hresp _ h hd hr _
      · refine updPort_portsOk h p fun hu => ?_
        obtain ⟨hA, -, ⟨h1, h2, h3⟩, hL⟩ := hu
        simp only [Config.queueEntries, Nat.not_le] at hroom
        refine ⟨hA, fun hs => absurd hs hd, ⟨?_, ?_, ?_⟩, hL⟩
        · simp only [List.length_append, List.length_singleton]; omega
        · simp only [List.map_append, List.map_cons, List.map_nil]
          refine List.Nodup.append h2 (by simp) ?_
          simp only [List.disjoint_singleton, List.mem_map, not_exists, not_and, newEntry]
          intro e he hte
          simp only [queued, Option.not_isSome_iff_eq_none, List.find?_eq_none, decide_eq_true_eq] at htag
          exact htag e he hte
        · simp only [List.length_append, List.length_singleton]; omega

theorem arrive_portsOk {s : State} (p : Port) (code : Byte) (k : Option Kind) (f : RequestFrame) (h : PortsOk s) :
    PortsOk (arrive p code k f s).1 := by
  unfold arrive
  split
  · exact h
  · next hd =>
    split
    · exact seeSymbols_portsOk p h
    · next ht =>
      have hn := countPort_notices p .framesIn 1 (seeSymbols p s) p
      have hs : (portUnit (seeSymbols p s) p).state = (portUnit s p).state ∧
          (portUnit (seeSymbols p s) p).responses = (portUnit s p).responses := by simp [seeSymbols]
      refine tryAdmit_portsOk p code k f (countPort_portsOk _ _ _ (seeSymbols_portsOk p h)) ?_ ?_
      · rw [hn.state, hs.1]; exact hd
      · rw [hn.responses, hs.2]
        simp only [takesFrames, Config.responseLimit, Bool.and_eq_false_iff, not_or] at ht
        exact @of_decide_eq_true _ _ (Bool.eq_true_of_not_eq_false ht.2)

/-- A request's taking keeps the port units where what its block does keeps them. -/
theorem takeRequest_portsOk {s : State} (k : Kind) {act : Port → QEntry → State → State} (p : Port) (tag : Tag)
    (hact : ∀ e s, PortsOk s → PortsOk (act p e s)) (h : PortsOk s) : PortsOk (takeRequest k act p tag s) := by
  unfold takeRequest
  repeat' split
  · exact h
  · exact answerEntry_portsOk _ _ _ h
  · exact hact _ _ h

theorem runRequest_portsOk {s : State} (k : Kind) {act : Port → QEntry → State → State} (p : Port) (st : RequestStep)
    (hact : ∀ e s, PortsOk s → PortsOk (act p e s)) (h : PortsOk s) : PortsOk (runRequest k act p st s) := by
  unfold runRequest
  dsimp only
  repeat' split
  · exact takeRequest_portsOk k p _ hact (arrive_portsOk _ _ _ _ h)
  · exact arrive_portsOk _ _ _ _ h
  · exact arrive_portsOk _ _ _ _ h
  · exact takeRequest_portsOk k p _ hact h

theorem answering_portsOk {g : Port → QEntry → State → State × Answer} {p : Port}
    (hg : ∀ e s, PortsOk s → PortsOk (g p e s).1) (e : QEntry) (s : State) (h : PortsOk s) :
    PortsOk (answering g p e s) := answerEntry_portsOk _ _ _ (hg e s h)

/-- A turn keeps the port units where grant and finish do. -/
theorem runTurn_portsOk {s : State} {grant : State → Option (State × Turn)} {finish : Turn → State → State}
    {mine : Turn → Bool} (st : OpStep) (hg : ∀ g, grant s = some g → PortsOk g.1)
    (hf : ∀ t s, PortsOk s → PortsOk (finish t s)) (h : PortsOk s) : PortsOk (runTurn grant finish mine st s) := by
  unfold runTurn
  repeat' split
  all_goals first | exact h | exact hf _ _ h | exact hf _ _ (hg _ (by assumption)) | exact hg _ (by assumption)

end Sys2Proof.Machine
end

