-- ==== Sys2Proof/Laws/PortsFamilies.lean ====
section
/-! SUPPORT. Every family's operations keep the port units as the rules keep them: one lemma for each. -/
namespace Sys2Proof.Machine

theorem addReferences_portsOk {s : State} (slot : Nat) (st : EntryState) (n : Nat) (h : PortsOk s) :
    PortsOk (addReferences slot st n s).1 := by
  unfold addReferences; dsimp only
  split <;> exact h

theorem countHit_portsOk {s : State} (ns : Nat) (l : Location) (h : PortsOk s) : PortsOk (countHit ns l s) :=
  countNs_portsOk _ _ _ (countNs_portsOk _ _ _ (countNs_portsOk _ _ _ h))

theorem requestWaiter_portsOk {s : State} (w : Waiter) (c : BitVec 16) (h : PortsOk s) :
    PortsOk (requestWaiter w c s).1 := by
  unfold requestWaiter
  repeat' split
  all_goals first | exact countNs_portsOk _ _ _ h | exact h

theorem insertEntry_portsOk {s : State} (w : Waiter) (fp : Fingerprint) (h : PortsOk s) :
    PortsOk (insertEntry w fp s).1 := by
  unfold insertEntry; dsimp only
  repeat' split
  all_goals first | exact countNs_portsOk _ _ _ (countNs_portsOk _ _ _ (setOccupancy_portsOk _ h)) | exact h

theorem lookupMatch_portsOk {s : State} (w : Waiter) (wait : Bool) (slot : Nat) (h : PortsOk s) :
    PortsOk (lookupMatch w wait slot s).1 := by
  unfold lookupMatch; dsimp only
  repeat' split
  all_goals first | exact requestWaiter_portsOk _ _ h | exact countHit_portsOk _ _ (addReferences_portsOk _ _ _ h) | exact h

theorem lookupCore_portsOk {s : State} (w : Waiter) (fp : Fingerprint) (wait : Bool) (h : PortsOk s) :
    PortsOk (lookupCore w fp wait s).1 := by
  unfold lookupCore; dsimp only
  repeat' split
  all_goals first | exact lookupMatch_portsOk _ _ _ (searchIndex_portsOk _ h) | exact insertEntry_portsOk _ _ (searchIndex_portsOk _ h) | exact h

theorem probeCore_portsOk {s : State} (fp : Fingerprint) (h : PortsOk s) : PortsOk (probeCore fp s).1 := by
  unfold probeCore; dsimp only
  repeat' split
  all_goals first | exact searchIndex_portsOk _ h | exact h

theorem refCore_portsOk {s : State} (fp : Fingerprint) (n : Nat) (h : PortsOk s) : PortsOk (refCore fp n s).1 := by
  unfold refCore; dsimp only
  repeat' split
  all_goals first | exact searchIndex_portsOk _ h | exact addReferences_portsOk _ _ _ (searchIndex_portsOk _ h) | exact h

theorem releaseStored_portsOk {s : State} (p : Port) (ns slot n : Nat) (h : PortsOk s) :
    PortsOk (releaseStored p ns slot n s).1 := by
  unfold releaseStored; dsimp only
  split
  · exact raiseTo_portsOk _ _ h
  · dsimp only
    split
    · exact countNs_portsOk _ _ _ (countNs_portsOk _ _ _ h)
    · exact countNs_portsOk _ _ _ h

theorem releaseCore_portsOk {s : State} (p : Port) (ns : Nat) (fp : Fingerprint) (n : Nat) (h : PortsOk s) :
    PortsOk (releaseCore p ns fp n s).1 := by
  unfold releaseCore; dsimp only
  repeat' split
  all_goals first | exact searchIndex_portsOk _ h | exact releaseStored_portsOk _ _ _ _ (searchIndex_portsOk _ h) | exact raiseTo_portsOk _ _ (searchIndex_portsOk _ h) | exact h

theorem moveCore_portsOk {s : State} (p : Port) (fp : Fingerprint) (a b c d : Nat) (h : PortsOk s) :
    PortsOk (moveCore p fp a b c d s).1 := by
  unfold moveCore moveMatch moveEntry; dsimp only
  repeat' split
  all_goals first | exact searchIndex_portsOk _ h | exact h

theorem dropCore_portsOk {s : State} (slot : Nat) (h : PortsOk s) : PortsOk (dropCore slot s).1 := by
  unfold dropCore; dsimp only
  repeat' split
  all_goals first | exact setOccupancy_portsOk _ h | exact h

theorem restoreCore_portsOk {s : State} (r : RestoreBody) (h : PortsOk s) : PortsOk (restoreCore r s).1 := by
  unfold restoreCore restoreEntry searchOthers; dsimp only
  repeat' split
  all_goals first | exact searchFrom_portsOk _ _ h | exact h

theorem finishPort_portsOk {s : State} {core : QEntry → State → State × Answer} (p : Port) (t : Turn)
    (hc : ∀ e s, PortsOk s → PortsOk (core e s).1) (h : PortsOk s) : PortsOk (finishPort core p t s) := by
  unfold finishPort
  split
  · next e => exact answerEntry_portsOk _ _ _ (hc e s h)
  · exact h

theorem finishLookup_portsOk {s : State} (p : Port) (t : Turn) (h : PortsOk s) : PortsOk (finishLookup p t s) := by
  unfold finishLookup
  split
  · split
    · next fp wait _ =>
      dsimp only
      split
      · exact answerEntry_portsOk _ _ _ (lookupCore_portsOk _ _ _ h)
      · split
        · exact updEntry_portsOk _ _ (fun _ => rfl) (lookupCore_portsOk _ _ _ h)
        · exact lookupCore_portsOk _ _ _ h
    · exact h
  · exact h

theorem grantPort_portsOk {s : State} (p : Port) (k : Kind) (h : PortsOk s) (g : State × Turn) (hg : grantPort p k s = some g) : PortsOk g.1 := by
  unfold grantPort at hg
  split at hg
  · simp at hg
  · split at hg
    · simp only [Option.some.injEq] at hg; subst hg; exact h
    · simp at hg

theorem grantClu_portsOk {s : State} (pk) (h : PortsOk s) (g : State × Turn) (hg : grantClu pk s = some g) : PortsOk g.1 := by
  unfold grantClu at hg
  repeat' split at hg
  all_goals simp only [Option.some.injEq, reduceCtorEq] at hg
  subst hg; exact h

theorem grantBte_portsOk {s : State} (h : PortsOk s) (g : State × Turn) (hg : grantBte s = some g) : PortsOk g.1 := by
  unfold grantBte at hg
  repeat' split at hg
  all_goals simp only [Option.some.injEq, reduceCtorEq] at hg
  subst hg; exact h

theorem grantSweeper_portsOk {s : State} (h : PortsOk s) (g : State × Turn) (hg : grantSweeper s = some g) : PortsOk g.1 := by
  unfold grantSweeper at hg
  repeat' split at hg
  all_goals simp only [Option.some.injEq, reduceCtorEq] at hg
  subst hg; exact h

theorem foldl_portsOk {α : Type} {f : State → α → State} (hf : ∀ s a, PortsOk s → PortsOk (f s a)) (l : List α) {s : State}
    (h : PortsOk s) : PortsOk (l.foldl f s) := by
  induction l generalizing s with
  | nil => exact h
  | cons a r ih => exact ih (hf _ _ h)

theorem verifyClaimed_portsOk {s : State} (n : Nat) (h : PortsOk s) : PortsOk (verifyClaimed n s) := by
  unfold verifyClaimed; dsimp only
  split
  · exact verifySlot_portsOk _ h
  · exact verifySlot_portsOk _ h

theorem freeClaimed_portsOk {s : State} (n : Nat) (h : PortsOk s) : PortsOk (freeClaimed n s) := by
  unfold freeClaimed; dsimp only
  split
  · exact handOver_portsOk _ _ _ (verifyClaimed_portsOk _ h)
  · exact setOccupancy_portsOk _ (verifyClaimed_portsOk _ h)

theorem refuseCommit_portsOk {s : State} (n : Nat) (p) (d) (a) (h : PortsOk s) : PortsOk (refuseCommit n p d a s) := by
  unfold refuseCommit; dsimp only
  split
  · exact expireClaim_portsOk _ (answer_portsOk _ _ _ _ h)
  · exact (answer_portsOk _ _ _ _ h)

theorem passCommit_portsOk {s : State} (n : Nat) (w d) (h : PortsOk s) : PortsOk (passCommit n w d s) := by
  unfold passCommit; dsimp only
  refine answer_portsOk _ _ _ _ (foldl_portsOk (fun s w h => answerWaiter_portsOk _ _ h) _ ?_)
  refine foldl_portsOk (fun s w h => countNs_portsOk _ _ _ (countNs_portsOk _ _ _ h)) _ ?_
  exact countNs_portsOk _ _ _ (countNs_portsOk _ _ _ h)

theorem commitClaim_portsOk {s : State} (n : Nat) (h : PortsOk s) : PortsOk (commitClaim n s) := by
  unfold commitClaim; dsimp only
  repeat' split
  all_goals first | exact refuseCommit_portsOk _ _ _ _ (verifyClaimed_portsOk _ h) | exact passCommit_portsOk _ _ _ (verifyClaimed_portsOk _ h) | exact verifyClaimed_portsOk _ h

theorem settleContext_portsOk {s : State} (n : Nat) (h : PortsOk s) : PortsOk (settleContext n s) := by
  unfold settleContext finishContext; dsimp only
  repeat' split
  all_goals first | exact answer_portsOk _ _ _ _ h | exact h

theorem completeContext_portsOk {s : State} (n : Nat) (h : PortsOk s) : PortsOk (completeContext n s) := by
  unfold completeContext finishContext; dsimp only
  repeat' split
  all_goals first | exact answer_portsOk _ _ _ _ h | exact h

theorem itemWork_portsOk {s : State} (n c i) (h : PortsOk s) : PortsOk (itemWork n c i s).1 := by
  unfold itemWork; dsimp only
  split
  · exact lookupCore_portsOk _ _ _ h
  · exact probeCore_portsOk _ h
  · exact releaseCore_portsOk _ _ _ _ h

theorem finishItem_portsOk {s : State} (t) (h : PortsOk s) : PortsOk (finishItem t s) := by
  unfold finishItem takeItem; dsimp only
  split
  · refine presentItem_portsOk ?_
    split
    · exact h
    · exact settleContext_portsOk _ (s := contextPut _ _ _) (itemWork_portsOk _ _ _ h)
  · exact h

theorem enterReady_portsOk {s : State} (h : PortsOk s) : PortsOk (enterReady s) := by
  unfold enterReady; dsimp only
  exact raiseAll_portsOk _ (evalContainersLow_portsOk (evalOccupancy_portsOk h))

theorem loadSettings_portsOk {s : State} (v) (h : PortsOk s) : PortsOk (loadSettings v s) := by
  unfold loadSettings
  refine updPorts_portsOk (s := { s with params := v.params, nst := v.namespaces }) h ?_
  intro p hu
  exact hu.congr rfl rfl rfl rfl rfl rfl rfl rfl

theorem recover_portsOk {s : State} (h : PortsOk s) : PortsOk (recover s) := by
  unfold recover
  refine enterReady_portsOk ?_
  unfold recoverIndex
  have h2 : PortsOk (recoverHeader s) := by
    unfold recoverHeader; dsimp only
    exact evalAdmissions_portsOk (loadSettings_portsOk _ h)
  dsimp only
  split
  · exact raiseAll_portsOk (s := { recoverHeader s with mif := _ }) _ h2
  · exact h2

theorem afterReset_portsOk (a b c d e) : PortsOk (State.afterReset a b c d e) := by
  intro p; cases p <;> exact reset_unitOk _

theorem enterFormatting_portsOk {s : State} (p e) (h : PortsOk s) : PortsOk (enterFormatting p e s) := by
  unfold enterFormatting; dsimp only
  refine foldl_portsOk (fun s p h => ?_) _ ?_
  · unfold refuseWaiting; exact foldl_portsOk (fun s e h => answerEntry_portsOk _ _ _ h) _ h
  · exact evalContainersLow_portsOk (evalOccupancy_portsOk (markTaken_portsOk _ _ h))

theorem takeFormatNow_portsOk {s : State} (p e) (h : PortsOk s) : PortsOk (takeFormatNow p e s) := by
  unfold takeFormatNow; split
  · exact answerEntry_portsOk _ _ _ h
  · exact enterFormatting_portsOk _ _ h

theorem applyParam_portsOk {s : State} (q) (h : PortsOk s) : PortsOk (applyParam q s) := by
  unfold applyParam
  repeat' split
  all_goals first | exact evalOccupancy_portsOk h | exact evalContainersLow_portsOk h | exact h

theorem setOnePort_portsOk {s : State} (m a q) (h : PortsOk s) : PortsOk (setOnePort m a s q) := by
  unfold setOnePort; dsimp only
  have : PortsOk (updPort q (changedPort m a) s) := updPort_portsOk h q fun hu => hu.congr rfl rfl rfl rfl rfl rfl rfl rfl
  split
  · exact evalAdmission_portsOk _ this
  · exact this

theorem bteTeardownWork_portsOk {s : State} (p) (h : PortsOk s) : PortsOk (bteTeardownWork p s) := by
  unfold bteTeardownWork; dsimp only
  refine presentItem_portsOk ?_
  unfold withdrawHeld
  repeat' split
  all_goals exact h

theorem takeCancellation_portsOk {s : State} (a b c d) (h : PortsOk s) : PortsOk (takeCancellation a b c d s) := by
  unfold takeCancellation
  repeat' split
  · exact answer_portsOk _ _ _ _ h
  · exact answer_portsOk _ _ _ _ h
  · refine presentItem_portsOk ?_
    have h2 := answer_portsOk a c d (.done .none) h
    unfold cancelContext finishContext; dsimp only
    have h3 : ∀ n, PortsOk (withdrawHeld (fun m => decide (m = n)) (answer a c d (.done .none) s)) := by
      intro n; unfold withdrawHeld; repeat' split
      all_goals exact h2
    split
    · exact answer_portsOk _ _ _ _ (h3 _)
    · exact h3 _

theorem startPart_portsOk (a b) : PortsOk (startPart a b) := by unfold startPart; exact afterReset_portsOk _ _ _ _ _

theorem whenPowered_portsOk {s : State} {g : State → State} (h : PortsOk s) (hg : ∀ s, PortsOk s → PortsOk (g s)) :
    PortsOk (whenPowered s g) := by
  unfold whenPowered; split
  · exact hg _ h
  · exact h

theorem doWhen_portsOk {s : State} {g : State → State} {b : Bool} (h : PortsOk s) (hg : ∀ s, PortsOk s → PortsOk (g s)) :
    PortsOk (doWhen b g s) := by
  unfold doWhen; split
  · exact hg _ h
  · exact h

theorem takeCommit_portsOk {s : State} (p : Port) (e) (h : PortsOk s) : PortsOk (takeCommit p e s) := by
  unfold takeCommit
  repeat' split
  all_goals first | exact answerEntry_portsOk _ _ _ h | exact markTaken_portsOk _ _ h | exact h

theorem takeAbandon_portsOk {s : State} (p : Port) (e) (h : PortsOk s) : PortsOk (takeAbandon p e s) := by
  unfold takeAbandon
  repeat' split
  all_goals first | exact answerEntry_portsOk _ _ _ h |  exact answerEntry_portsOk _ _ _ (releaseClaim_portsOk _ h)| exact h

theorem takeCancel_portsOk {s : State} (p : Port) (e) (h : PortsOk s) : PortsOk (takeCancel p e s) := by
  unfold takeCancel
  repeat' split
  all_goals first | exact answerEntry_portsOk _ _ _ h | exact answerEntry_portsOk _ _ _ (answerEntry_portsOk _ _ _ h) | exact markTaken_portsOk _ _ h | exact h

theorem takeBatch_portsOk {s : State} (p : Port) (e) (h : PortsOk s) : PortsOk (takeBatch p e s) := by
  unfold takeBatch
  repeat' split
  all_goals first | exact answerEntry_portsOk _ _ _ h | exact presentItem_portsOk (updEntry_portsOk p e.tag (fun _ => rfl) h) | exact h

theorem takeFormat_portsOk {s : State} (p : Port) (e) (h : PortsOk s) : PortsOk (takeFormat p e s) := by
  unfold takeFormat
  repeat' split
  all_goals first | exact takeFormatNow_portsOk _ _ h | exact h

theorem openContainerWork_portsOk {s : State} (p e) (h : PortsOk s) : PortsOk (openContainerWork p e s).1 := by
  unfold openContainerWork; dsimp only
  repeat' split
  all_goals first | exact evalContainersLow_portsOk h | exact h

theorem closeContainerWork_portsOk {s : State} (p e) (h : PortsOk s) : PortsOk (closeContainerWork p e s).1 := by
  unfold closeContainerWork; dsimp only
  repeat' split
  all_goals exact h

theorem reclaimWork_portsOk {s : State} (p e) (h : PortsOk s) : PortsOk (reclaimWork p e s).1 := by
  unfold reclaimWork; dsimp only
  repeat' split
  all_goals first | exact evalContainersLow_portsOk h | exact h

theorem findEmptyWork_portsOk {s : State} (p e) (h : PortsOk s) : PortsOk (findEmptyWork p e s).1 := by
  unfold findEmptyWork; split <;> exact h

theorem containerStatusWork_portsOk {s : State} (p e) (h : PortsOk s) : PortsOk (containerStatusWork p e s).1 := by
  unfold containerStatusWork; split <;> exact h

theorem fixOutcome_portsOk {work : Port → QEntry → State → State × Answer} {p : Port}
    (hw : ∀ e s, PortsOk s → PortsOk (work p e s).1) (e : QEntry) (s : State) (h : PortsOk s) :
    PortsOk (fixOutcome work p e s) := (markTaken_portsOk p e.tag (hw e s h)).of_ports rfl

theorem handOutcome_portsOk {s : State} (k : Kind) (p : Port) (tag : Tag) (h : PortsOk s) :
    PortsOk (handOutcome k p tag s) := by
  unfold handOutcome
  split
  · exact h
  · exact answer_portsOk _ _ _ _ (h.of_ports rfl)

/-- A container request keeps the port units, by whichever of its events, where its work does. -/
theorem runContainer_portsOk {s : State} (k : Kind) {work : Port → QEntry → State → State × Answer} (p : Port)
    (st : ContainerStep) (hw : ∀ e s, PortsOk s → PortsOk (work p e s).1) (h : PortsOk s) :
    PortsOk (runContainer k work p st s) := by
  cases st with
  | request r => exact runRequest_portsOk k p r (answering_portsOk hw) h
  | fix tag => exact takeRequest_portsOk k p tag (fixOutcome_portsOk hw) h
  | hand tag => exact handOutcome_portsOk k p tag h

theorem snapshotWork_portsOk {s : State} (p e) (h : PortsOk s) : PortsOk (snapshotWork p e s).1 := by
  unfold snapshotWork; split
  · exact takeSnapshot_portsOk h
  · exact h

theorem eventsWork_portsOk {s : State} (p e) (h : PortsOk s) : PortsOk (eventsWork p e s).1 := by
  unfold eventsWork
  refine updPort_portsOk h p fun hu => ⟨rfl, fun hd => ?_, hu.2.2⟩
  have := hu.2.1 hd
  exact ⟨this.1, this.2.1, rfl⟩

theorem eventMaskWork_portsOk {s : State} (p e) (h : PortsOk s) : PortsOk (eventMaskWork p e s).1 := by
  unfold eventMaskWork
  split
  · exact updPort_portsOk h p fun hu => ⟨rfl, hu.2.1, hu.2.2⟩
  · exact h

theorem setNamespaceWork_portsOk {s : State} (p e) (h : PortsOk s) : PortsOk (setNamespaceWork p e s).1 := by
  unfold setNamespaceWork; dsimp only
  repeat' split
  all_goals exact h

theorem setPortWork_portsOk {s : State} (p e) (h : PortsOk s) : PortsOk (setPortWork p e s).1 := by
  unfold setPortWork setPorts; dsimp only
  repeat' split
  all_goals first | exact h | exact setOnePort_portsOk _ _ _ h | exact foldl_portsOk (fun s p h => setOnePort_portsOk _ _ _ h) _ h

theorem admitWork_portsOk {s : State} (p e) (h : PortsOk s) : PortsOk (admitWork p e s).1 := by
  unfold admitWork
  repeat' split
  all_goals first | exact enterOnline_portsOk _ (updPort_portsOk h _ fun hu => hu.congr rfl rfl rfl rfl rfl rfl rfl rfl) | exact h

theorem evictWork_portsOk {s : State} (p e) (h : PortsOk s) : PortsOk (evictWork p e s).1 := by
  unfold evictWork
  repeat' split
  all_goals first | exact takeEviction_portsOk _ h | exact (updPort_portsOk h _ fun hu => hu.congr rfl rfl rfl rfl rfl rfl rfl rfl) | exact h

theorem changeTaken_portsOk {s : State} (c) (h : PortsOk s) : PortsOk (changeTaken c s) := by
  unfold changeTaken
  exact answer_portsOk _ _ _ _ (applyParam_portsOk (s := forceParam _ _ s) _ h)

theorem ownChange_portsOk {s : State} (p q) (h : PortsOk s) : PortsOk (ownChange p q s) := by
  unfold ownChange
  repeat' split
  all_goals first | exact changeTaken_portsOk (s := setChanges _ s) _ h | exact h

theorem unitChange_portsOk {s : State} (p u) (h : PortsOk s) : PortsOk (unitChange p u s) := by
  unfold unitChange
  repeat' split
  all_goals first | exact changeTaken_portsOk (s := setChanges _ s) _ h | exact h

theorem handChange_portsOk {p : Port} (e : QEntry) (s : State) (h : PortsOk s) : PortsOk (handChange p e s) := by
  unfold handChange; split
  · exact (markTaken_portsOk p e.tag h).of_ports rfl
  · exact answerEntry_portsOk _ _ _ h

theorem ownWhole_portsOk {s : State} (p q) (h : PortsOk s) : PortsOk (ownWhole p q s) := by
  unfold ownWhole
  split
  · exact foldl_portsOk (fun s u h => unitChange_portsOk _ u h) _ h
  · exact ownChange_portsOk _ _ h

theorem takeParameter_portsOk {p : Port} (e : QEntry) (s : State) (h : PortsOk s) : PortsOk (takeParameter p e s) := by
  have hh := handChange_portsOk (p := p) e s h
  unfold takeParameter doWhen
  split
  · split
    · exact ownWhole_portsOk p _ hh
    · exact hh
  · exact hh

/-- SET_PARAMETER keeps the port units, by whichever of its events. -/
theorem execSetParameter_portsOk {s t : State} (p : Port) (r : ParameterStep) (h : PortsOk s)
    (he : execSetParameter p r s = .next t) : PortsOk t := by
  simp only [execSetParameter, Host.Outcome.next.injEq] at he
  subst he
  unfold whenPowered
  split
  · cases r with
    | request r => exact runRequest_portsOk _ p r takeParameter_portsOk h
    | write tag => exact takeRequest_portsOk _ p tag handChange_portsOk h
    | own q => exact ownChange_portsOk p q h
    | unit u => exact unitChange_portsOk p u h
  · exact h

theorem getParameterWork_portsOk {s : State} (p e) (h : PortsOk s) : PortsOk (getParameterWork p e s).1 := by
  unfold getParameterWork; split <;> exact h

theorem probeOf_portsOk {s : State} (e) (h : PortsOk s) : PortsOk (probeOf e s).1 := by
  unfold probeOf; split
  · exact probeCore_portsOk _ h
  · exact h

theorem refOf_portsOk {s : State} (e) (h : PortsOk s) : PortsOk (refOf e s).1 := by
  unfold refOf; split
  · exact refCore_portsOk _ _ h
  · exact h

theorem releaseOf_portsOk {s : State} (p e) (h : PortsOk s) : PortsOk (releaseOf p e s).1 := by
  unfold releaseOf; split
  · exact releaseCore_portsOk _ _ _ _ h
  · exact h

theorem moveOf_portsOk {s : State} (p e) (h : PortsOk s) : PortsOk (moveOf p e s).1 := by
  unfold moveOf; split
  · exact moveCore_portsOk _ _ _ _ _ _ h
  · exact h

theorem readSlotOf_portsOk {s : State} (e) (h : PortsOk s) : PortsOk (readSlotOf e s).1 := by
  unfold readSlotOf; split <;> exact h

theorem dropOf_portsOk {s : State} (e) (h : PortsOk s) : PortsOk (dropOf e s).1 := by
  unfold dropOf; split
  · exact dropCore_portsOk _ h
  · exact h

theorem restoreOf_portsOk {s : State} (e) (h : PortsOk s) : PortsOk (restoreOf e s).1 := by
  unfold restoreOf; split
  · exact restoreCore_portsOk _ h
  · exact h

theorem purgeIfDue_portsOk {s : State} (a b n) (h : PortsOk s) : PortsOk (purgeIfDue a b n s) := by
  unfold purgeIfDue purgeSlot; dsimp only
  split
  · exact countNs_portsOk _ _ _ (countNs_portsOk _ _ _ (setOccupancy_portsOk _ h))
  · exact h

theorem finishSweep_portsOk {s : State} (t) (h : PortsOk s) : PortsOk (finishSweep t s) := by
  unfold finishSweep
  split
  · next m g now =>
    have : PortsOk (sweepBucket m g now s) := by
      unfold sweepBucket
      refine foldl_portsOk (fun s n h => ?_) _ h
      unfold sweepSlot
      repeat' split
      all_goals first | exact purgeIfDue_portsOk _ _ _ (verifySlot_portsOk _ h) | exact h
    unfold endBucket; dsimp only
    split
    · exact raiseAll_portsOk (s := {sweepBucket m g now s with swp := _ }) _ this
    · exact this
  · exact h

theorem takeCluTeardown_portsOk {s : State} (p) (h : PortsOk s) : PortsOk (takeCluTeardown p s) := by
  unfold takeCluTeardown
  refine evalAdmission_portsOk _ (updPort_portsOk ?_ _ fun hu => hu.congr rfl rfl rfl rfl rfl rfl rfl rfl)
  have : PortsOk (cluTeardownWork p s) := by
    unfold cluTeardownWork
    refine foldl_portsOk (fun s n h => ?_) _ h
    unfold giveUpClaim
    split
    · exact releaseClaim_portsOk _ h
    · exact h
  exact this

theorem takeCtuTeardown_portsOk {s : State} (p) (h : PortsOk s) : PortsOk (takeCtuTeardown p s) := by
  unfold takeCtuTeardown
  exact evalAdmission_portsOk _ (updPort_portsOk (s := ctuTeardownWork p s) h _ fun hu => hu.congr rfl rfl rfl rfl rfl rfl rfl rfl)

theorem takeBteTeardown_portsOk {s : State} (p) (h : PortsOk s) : PortsOk (takeBteTeardown p s) := by
  unfold takeBteTeardown
  exact evalAdmission_portsOk _ (updPort_portsOk (bteTeardownWork_portsOk _ h) _ fun hu => hu.congr rfl rfl rfl rfl rfl rfl rfl rfl)

theorem takeWithdrawal_portsOk {s : State} (h : PortsOk s) : PortsOk (takeWithdrawal s) := by
  unfold takeWithdrawal; split
  · exact h
  · exact h

theorem finishClu_portsOk {s : State} (t) (h : PortsOk s) : PortsOk (finishClu t s) := by
  unfold finishClu; split
  · exact commitClaim_portsOk _ h
  · exact freeClaimed_portsOk _ h
  · exact h

theorem takePersistence_portsOk {s : State} (p) (h : PortsOk s) : PortsOk (takePersistence p s) := by
  unfold takePersistence
  exact evalAdmission_portsOk _ (updPort_portsOk h _ fun hu => hu.congr rfl rfl rfl rfl rfl rfl rfl rfl)

theorem unitJudged_portsOk {s : State} (p) (b) (h : PortsOk s) : PortsOk (updPort p (unitJudged b) s) :=
  updPort_portsOk h _ fun hu => hu.congr rfl rfl rfl rfl rfl rfl rfl rfl

theorem unitSteady_ok {u} (h : UnitOk u) : UnitOk (unitSteady u) :=
  ⟨h.1, h.2.1, h.2.2.1, by simp [unitSteady, LinkOk, Config.admitPersistence]⟩

theorem unitQuiet_ok {u} (h : UnitOk u) : UnitOk (unitQuiet u) :=
  ⟨h.1, h.2.1, h.2.2.1, by simp [unitQuiet, LinkOk]⟩

theorem judgeSteady_portsOk {s : State} (p) (h : PortsOk s) : PortsOk (judgeSteady p s) := by
  unfold judgeSteady doWhen
  have h' : PortsOk (updPort p unitSteady s) := updPort_portsOk h _ unitSteady_ok
  split
  · exact takePersistence_portsOk _ h'
  · exact h'

theorem judgeQuiet_portsOk {s : State} (p) (h : PortsOk s) : PortsOk (judgeQuiet p s) := by
  unfold judgeQuiet doWhen
  have h' : PortsOk (updPort p unitQuiet s) := updPort_portsOk h _ unitQuiet_ok
  split
  · exact takeLoss_portsOk _ h'
  · exact h'

theorem judgePort_portsOk {s : State} (p y) (h : PortsOk s) : PortsOk (judgePort p y s) := by
  unfold judgePort
  split
  · exact h
  · split
    · exact judgeSteady_portsOk _ h
    · exact judgeQuiet_portsOk _ h

theorem tickPort_portsOk {s : State} (y p) (h : PortsOk s) : PortsOk (tickPort y s p) := by
  unfold tickPort
  split
  · exact unitJudged_portsOk _ _ h
  · exact judgePort_portsOk _ _ h

theorem judgeAhead_portsOk {s : State} {p} {judge : State → State} (h : PortsOk (judge s)) :
    PortsOk (judgeAhead p judge s) := unitJudged_portsOk _ _ h

theorem tick_portsOk {s : State} (y) (h : PortsOk s) : PortsOk (tick y s) :=
  PortsOk.of_ports (s := allPorts.foldl (tickPort y) s) (foldl_portsOk (fun _ p h => tickPort_portsOk y p h) _ h) rfl

theorem unitSent_ok {u} (h : UnitOk u) : UnitOk (unitSent u) := by
  unfold unitSent
  split
  · exact h.congr rfl rfl rfl rfl rfl rfl rfl rfl
  · obtain ⟨hA, hD, ⟨a, b, c⟩, hL⟩ := h
    refine ⟨hA, fun hd => ?_, ⟨a, b, ?_⟩, hL⟩
    · exact ⟨(hD hd).1, by simp [(hD hd).2.1], (hD hd).2.2⟩
    · change u.queue.length + u.responses.tail.length ≤ 64
      rw [List.length_tail]; omega

theorem transmitNext_portsOk {s : State} (p) (h : PortsOk s) : PortsOk (transmitNext p s) := by
  unfold transmitNext
  split
  · exact updPort_portsOk (s := { s with linkOut := _ }) (h.of_ports rfl) _ unitSent_ok
  · exact h
  · exact h

theorem rebuildCtu_portsOk {s : State} (h : PortsOk s) : PortsOk (rebuildCtu s) := h.of_ports rfl

theorem formatWalk_portsOk {s : State} (j) (h : PortsOk s) : PortsOk (formatWalk j s) := by
  unfold formatWalk
  refine answer_portsOk _ _ _ _ (enterReady_portsOk ?_)
  unfold formatBlocks
  refine rebuildCtu_portsOk (loadSettings_portsOk defaultSettings (PortsOk.of_ports h ?_))
  rfl

theorem takeRestart_portsOk {s : State} (p e) (h : PortsOk s) : PortsOk (takeRestart p e s) := by
  unfold takeRestart; dsimp only
  exact answerEntry_portsOk _ _ _ h

theorem losePower_portsOk {s : State} (w) : PortsOk (losePower w s) := by
  intro p; cases p <;> exact reset_unitOk _

theorem restartPart_portsOk {s : State} (i w) : PortsOk (restartPart i w s) := by
  intro p; cases p <;> exact reset_unitOk _

theorem takeItemAnswer_portsOk {s : State} (a b c d) (h : PortsOk s) : PortsOk (takeItemAnswer a b c d s) := by
  unfold takeItemAnswer; dsimp only; split
  · exact presentItem_portsOk (completeContext_portsOk (s := contextPut _ _ s) _ h)
  · exact h

theorem takeWithdrawalAnswer_portsOk {s : State} (a b c) (h : PortsOk s) : PortsOk (takeWithdrawalAnswer a b c s) := by
  unfold takeWithdrawalAnswer; dsimp only; split
  · exact presentItem_portsOk (completeContext_portsOk (s := contextPut _ _ s) _ h)
  · exact h

theorem unitFirstSymbol_ok {u} (h : UnitOk u) : UnitOk (unitFirstSymbol u) := by
  unfold unitFirstSymbol; split
  · exact h.withState rfl rfl rfl (by simp) rfl rfl (by simp) (by simp)
  · exact h

theorem identifyWork_portsOk {s : State} (p e) (h : PortsOk s) : PortsOk (identifyWork p e s).1 := h

theorem indexStatusWork_portsOk {s : State} (p e) (h : PortsOk s) : PortsOk (indexStatusWork p e s).1 := h

theorem portStatusWork_portsOk {s : State} (p e) (h : PortsOk s) : PortsOk (portStatusWork p e s).1 := h

theorem statsWork_portsOk {s : State} (p e) (h : PortsOk s) : PortsOk (statsWork p e s).1 := h

end Sys2Proof.Machine
end

