-- ==== Sys2Proof/Laws/Requests.lean ====
section
/-! SUPPORT. What it takes for a request to be answered, taken or granted its turn, and what the command then comes to. -/

namespace Sys2Proof.Machine

/-! ## Answers of queued requests -/

theorem IsQueued.of_notices {s t : State} {p : Port} {e : QEntry} (hn : NoticesOnly t s) (h : IsQueued s p e) :
    IsQueued t p e := by
  unfold IsQueued queued at *
  rw [(hn p).queue, (hn p).session]
  exact h

theorem IsQueued.of_ports {s t : State} {p : Port} {e : QEntry} (hp : t.ports = s.ports) (h : IsQueued s p e) :
    IsQueued t p e := h.of_notices (.of_ports hp)

/-- The outcome of a queued request is sent, unless a RESTART is taken (R143, R177). -/
theorem answerEntry_answered {s : State} {p : Port} {e : QEntry} (h : IsQueued s p e)
    (hr : s.mif.restartTaken = false) (a : Answer) : answerEntry p e a s = answered p e a s :=
  answer_sent a h.1 h.2 hr

/-! ## Requests that a block takes -/

theorem takeable_some {s : State} {p : Port} {k : Kind} {tag : Tag} {e : QEntry} (h : takeable s p k tag = some e) :
    queued s p tag = some e ∧ e.tag = tag ∧ e.kind = k ∧ e.phase = .atBlock ∧ e.taken = false ∧
      firstForBlock s p e = true ∧ blockFree s (requestOwner p e.request) = true ∧
      notWaiting s e = true := by
  unfold takeable at h
  split at h
  · simp at h
  · next x hx =>
    split at h
    · next hc =>
      simp only [Option.some.injEq] at h
      subst h
      have ht : x.tag = tag := by
        unfold queued at hx
        simpa using List.find?_some hx
      exact ⟨hx, ht, hc⟩
    · simp at h

theorem CanTake.isQueued {s : State} {p : Port} {e : QEntry} (h : CanTake s p e) : IsQueued s p e :=
  ⟨(takeable_some h.2.1).1, h.2.2.2.1⟩

theorem CanTake.restart {s : State} {p : Port} {e : QEntry} (h : CanTake s p e) : s.mif.restartTaken = false :=
  h.2.2.2.2

/-- A request that can be taken is taken: what its block does (R136, R142). -/
theorem runRequest_take {s : State} {p : Port} {e : QEntry} (h : CanTake s p e)
    (act : Port → QEntry → State → State) : whenPowered s (runRequest e.kind act p (.take e.tag)) = act p e s := by
  simp [whenPowered, h.1, runRequest, takeRequest, h.2.1, h.2.2.1]

/-- A request that is answered in the event that takes it. -/
theorem runRequest_answering {s : State} {p : Port} {e : QEntry} (h : CanTake s p e)
    (work : Port → QEntry → State → State × Answer) (hn : NoticesOnly (work p e s).1 s)
    (hm : (work p e s).1.mif = s.mif) :
    whenPowered s (runRequest e.kind (answering work) p (.take e.tag)) = answered p e (work p e s).2 (work p e s).1 := by
  rw [runRequest_take h]
  exact answerEntry_answered (h.isQueued.of_notices hn) (by rw [hm]; exact h.restart) _

/-- A request admitted earlier, taken after the index has left READY: NOT_READY, and no record changes (R136). -/
theorem takeRequest_notReady {s : State} {p : Port} {k : Kind} {e : QEntry} {tag : Tag}
    (ht : takeable s p k tag = some e) (hk : kindAllowed k s.mif.indexState = false)
    (act : Port → QEntry → State → State) :
    takeRequest k act p tag s = answerEntry p e (.notReady s.mif.indexState) s := by
  simp [takeRequest, ht, hk]

/-! ## Container requests whose outcome is handed over apart (R88, R153) -/

/-- A container request that can be taken is taken, and its outcome fixed. -/
theorem runContainer_fix {s : State} {p : Port} {e : QEntry} (h : CanTake s p e)
    (work : Port → QEntry → State → State × Answer) :
    whenPowered s (runContainer e.kind work p (.fix e.tag)) = fixOutcome work p e s := by
  simp [whenPowered, h.1, runContainer, takeRequest, h.2.1, h.2.2.1]

/-- The earliest outcome of the kind, port and tag is the one handed over. -/
theorem handOutcome_first {s : State} {k : Kind} {p : Port} {tag : Tag} {o : CtuOutcome} {pre post : List CtuOutcome}
    (hs : s.ctu.outcomes = pre ++ o :: post) (hpre : ∀ x ∈ pre, isOutcome k p tag x = false)
    (ho : isOutcome k p tag o = true) :
    handOutcome k p tag s =
      answer o.port o.tag o.mark o.answer { s with ctu := { s.ctu with outcomes := pre ++ post } } := by
  have hf : s.ctu.outcomes.find? (isOutcome k p tag) = some o := by
    rw [hs, List.find?_append, List.find?_eq_none.mpr (by simpa using hpre)]
    simp [ho]
  have he : s.ctu.outcomes.eraseP (isOutcome k p tag) = pre ++ post := by
    rw [hs, List.eraseP_append_right _ (by simpa using hpre)]
    simp [ho]
  unfold handOutcome
  rw [hf]
  simp only [he]

/-- With no outcome of the kind, port and tag nothing is handed over. -/
theorem handOutcome_none {s : State} {k : Kind} {p : Port} {tag : Tag}
    (h : ∀ x ∈ s.ctu.outcomes, isOutcome k p tag x = false) : handOutcome k p tag s = s := by
  unfold handOutcome
  rw [List.find?_eq_none.mpr (by simpa using h)]

/-- A request noted as taken is not taken again (R142). -/
theorem takeable_taken {s : State} {p : Port} {k : Kind} {tag : Tag} (h : ∀ e, queued s p tag = some e → e.taken = true) :
    takeable s p k tag = none := by
  cases ht : takeable s p k tag with
  | none => rfl
  | some e =>
    have := takeable_some ht
    simp_all

/-! ## Parameters, written and taken in two events (R178) -/

/-- A SET_PARAMETER that can be taken is written and handed over by the memory interface's event alone. -/
theorem takeRequest_write {s : State} {p : Port} {e : QEntry} (h : CanTake s p e) (act : Port → QEntry → State → State) :
    takeRequest e.kind act p e.tag s = act p e s := by
  simp [takeRequest, h.2.1, h.2.2.1]

/-- A list split before the first element that a test names. -/
theorem split_first {α : Type} {f : α → Bool} {pre post : List α} {c : α} (hpre : ∀ x ∈ pre, f x = false)
    (hc : f c = true) (g : α → α) :
    (pre ++ c :: post).find? f = some c ∧ (pre ++ c :: post).eraseP f = pre ++ post ∧
      (pre ++ c :: post).modify ((pre ++ c :: post).findIdx f) g = pre ++ g c :: post := by
  induction pre with
  | nil => simp [hc, List.findIdx_cons]
  | cons a l ih =>
    obtain ⟨ha, hl⟩ : f a = false ∧ ∀ x ∈ l, f x = false := by simpa using hpre
    have ih := ih hl
    simp [List.findIdx_cons, ha, ih.1, ih.2.1, ih.2.2]

/-- The owner takes the earliest change of its parameter. -/
theorem ownChange_first {s : State} {c : ParamChange} {pre post : List ParamChange}
    (hs : s.mif.changes = pre ++ c :: post) (hpre : ∀ x ∈ pre, x.param ≠ c.param) (hc : c.param ≠ .lossWindowMs)
    (hf : ownerFree s c.param = true) :
    ownChange c.port c.param s = changeTaken c (setChanges (pre ++ post) s) := by
  have h := split_first (f := isChange c.param) (post := post) (c := c) (by simpa [isChange] using hpre)
    (by simp [isChange]) id
  unfold ownChange
  rw [hs, h.1, h.2.1]
  simp [hc, hf]

/-- The owner takes nothing while the earliest change of its parameter is another port's, or while it is busy, or with no
change handed over. -/
theorem ownChange_waits {s : State} {p : Port} {q : Param}
    (h : ∀ c, s.mif.changes.find? (isChange q) = some c → c.port ≠ p ∨ q = .lossWindowMs ∨ ownerFree s q = false) :
    ownChange p q s = s := by
  unfold ownChange
  split
  · next c hc =>
    have := h c hc
    split
    · next hk => simp_all
    · rfl
  · rfl

/-- A port unit that is not the last takes its part of a change of LOSS_WINDOW_MS. -/
theorem unitChange_first {s : State} {u : Port} {c : ParamChange} {pre post : List ParamChange}
    (hs : s.mif.changes = pre ++ c :: post) (hpre : ∀ x ∈ pre, isUnitChange u x = false) (hc : isUnitChange u c = true)
    (hl : ∃ v, v ≠ u ∧ fourGet c.units v = false) :
    unitChange c.port u s = setChanges (pre ++ { c with units := fourSet c.units u true } :: post) s := by
  have h := split_first (post := post) hpre hc (fun c => { c with units := fourSet c.units u true })
  have hn : (fourList (fourSet c.units u true)).all id = false := by
    obtain ⟨v, hv, hu⟩ := hl
    cases u <;> cases v <;> simp_all [fourList, fourSet, fourGet]
  unfold unitChange
  rw [hs, h.1, h.2.2]
  simp [hn]

/-- The last port unit ends the change of LOSS_WINDOW_MS. -/
theorem unitChange_last {s : State} {u : Port} {c : ParamChange} {pre post : List ParamChange}
    (hs : s.mif.changes = pre ++ c :: post) (hpre : ∀ x ∈ pre, isUnitChange u x = false) (hc : isUnitChange u c = true)
    (hl : ∀ v, v ≠ u → fourGet c.units v = true) :
    unitChange c.port u s = changeTaken c (setChanges (pre ++ post) s) := by
  have h := split_first (post := post) hpre hc id
  have hn : (fourList (fourSet c.units u true)).all id = true := by
    have h0 := hl .p0; have h1 := hl .p1; have h2 := hl .p2; have h3 := hl .p3
    cases u <;> simp_all [fourList, fourSet, fourGet]
  unfold unitChange
  rw [hs, h.1, h.2.1]
  simp [hn]

/-- A port unit takes nothing while its earliest change of LOSS_WINDOW_MS is another port's, or with none handed over. -/
theorem unitChange_waits {s : State} {p u : Port}
    (h : ∀ c, s.mif.changes.find? (isUnitChange u) = some c → c.port ≠ p) : unitChange p u s = s := by
  unfold unitChange
  split
  · next c hc => simp [h c hc]
  · rfl

theorem cluBusy_iff (s : State) :
    cluBusy s = true ↔
      ∃ n, s.ixc.inProgress = some (.entryUpdate n) ∨ s.ixc.inProgress = some (.freeing n) := by
  unfold cluBusy
  split <;> simp_all

/-- The owner of a parameter is busy: the claim unit, within an update of its own. -/
theorem ownerFree_false (s : State) (q : Param) :
    ownerFree s q = false ↔ q = .claimWindowMs ∧ cluBusy s = true := by
  unfold ownerFree
  cases cluBusy s <;> simp

/-- A request noted as taken is the request queued under its tag. -/
theorem queued_markTaken {s : State} {p : Port} {e : QEntry} {tag : Tag} (h : queued s p tag = some e) :
    queued (markTaken p tag s) p tag = some { e with taken := true } := by
  unfold queued at *
  unfold markTaken updEntry
  rw [portUnit_updPort_same]
  dsimp only
  generalize (portUnit s p).queue = l at *
  induction l with
  | nil => simp at h
  | cons a l ih =>
    by_cases ha : a.tag = tag
    · rw [List.find?_cons_of_pos (by simpa using ha)] at h
      cases h
      rw [List.map_cons, List.find?_cons_of_pos (by simp [ha])]
      simp [ha]
    · rw [List.find?_cons_of_neg (by simpa using ha)] at h
      rw [List.map_cons, List.find?_cons_of_neg (by simp [ha])]
      exact ih h

/-- The queue without a request is the same whether or not that request is noted as taken. -/
theorem filter_markTaken (tag : Tag) (l : List QEntry) :
    (l.map (fun e => if e.tag = tag then { e with taken := true } else e)).filter (fun x => decide (x.tag ≠ tag)) =
      l.filter (fun x => decide (x.tag ≠ tag)) := by
  induction l with
  | nil => rfl
  | cons a l ih =>
    by_cases ha : a.tag = tag
    · simp only [List.map_cons, ha, if_true]
      rw [List.filter_cons_of_neg (by simp), List.filter_cons_of_neg (by simp [ha])]
      exact ih
    · simp only [List.map_cons, ha, if_false]
      rw [List.filter_cons_of_pos (by simp [ha]), List.filter_cons_of_pos (by simp [ha]), ih]

/-- The owner's effects change port units by notices alone (R12, R86, R166). -/
theorem applyParam_notices (q : Param) (s : State) : NoticesOnly (applyParam q s) s := by
  unfold applyParam
  repeat' split
  all_goals first | exact evalOccupancy_notices _ | exact evalContainersLow_notices _ | exact NoticesOnly.of_ports rfl

theorem sweepOfCode_off (v : Nat) : sweepOfCode v = .off ↔ v = 0 := by
  rcases v with _ | _ | v <;> simp [sweepOfCode]

/-- A change taken by its owner is in force with the owner's effects. -/
theorem applyParam_inForce (q : Param) (v : Nat) (s : State) :
    ParamInForce q v s (applyParam q (forceParam q v s)) := by
  unfold ParamInForce
  cases q <;> simp [applyParam, forceParam, retimed, paramSet]
  · simp [sweepOfCode_off]; split <;> simp
  · rfl
  · rfl
  · rfl
  · rfl

/-- With no change of LOSS_WINDOW_MS left, every port unit has the value that all four have taken. -/
theorem lossWindow_settled {s : State} {u : Port} (h : ∀ c ∈ s.mif.changes, c.param ≠ .lossWindowMs) :
    lossWindow s u = s.params.lossWindowMs := by
  unfold lossWindow
  rw [List.find?_eq_none.mpr (by intro c hc; simp [h c (by simpa using hc)])]

/-! ## Turns -/

theorem nextRequester_grants {s : State} {r : Requester} (h : nextRequester s = some r) :
    s.mif.indexState = .ready ∧ s.ixc.inProgress = none ∧ s.mif.formatWaits = none ∧ s.mif.restartTaken = false := by
  unfold nextRequester at h
  split at h
  · next hg => simpa [mayGrant, and_assoc] using hg
  · simp at h

theorem HasTurn.restart {s : State} {p : Port} {e : QEntry} (h : HasTurn s p e) : s.mif.restartTaken = false :=
  (nextRequester_grants h.2.1).2.2.2

/-- A port's turn granted: the state in which its operation begins (R19). -/
theorem grantPort_some {s : State} {p : Port} {e : QEntry} (h : HasTurn s p e) :
    grantPort p e.kind s = some (turnBegun p e s, .port p e) := by
  simp [grantPort, h.2.1, h.2.2.1, turnBegun]

/-- A whole turn of a port whose operation leaves port units alone but for notices: the request is answered with what the
operation gives (R20, R143). -/
theorem portTurn_whole {s : State} {p : Port} {e : QEntry} (h : HasTurn s p e) (core : QEntry → State → State × Answer)
    (mine : Turn → Bool) (hn : NoticesOnly (core e (turnBegun p e s)).1 s)
    (hm : (core e (turnBegun p e s)).1.mif.restartTaken = s.mif.restartTaken) :
    whenPowered s (runTurn (grantPort p e.kind) (finishPort core p) mine .whole) =
      answered p e (core e (turnBegun p e s)).2 (endTurn (core e (turnBegun p e s)).1) := by
  simp only [whenPowered, h.1, if_true, runTurn, grantPort_some h, finishPort]
  refine answerEntry_answered (h.2.2.2.of_notices (NoticesOnly.trans (.of_ports (by simp)) hn)) ?_ _
  simp only [endTurn_frame, hm]
  exact h.restart

/-! ## The work that single requests and batch items share (R115) -/

/-- Port units changed by notices alone, and the memory interface not at all: what an operation of the index leaves. -/
def QuietWork (t s : State) : Prop := NoticesOnly t s ∧ t.mif = s.mif

theorem QuietWork.rfl {s : State} : QuietWork s s := ⟨.rfl, Eq.refl _⟩

theorem QuietWork.trans {a b c : State} (h : QuietWork a b) (k : QuietWork b c) : QuietWork a c :=
  ⟨h.1.trans k.1, h.2.trans k.2⟩

theorem countNs_quiet (ns : Nat) (c : NsCounter) (n : Nat) (s : State) : QuietWork (countNs ns c n s) s :=
  ⟨countNs_notices _ _ _ _, by simp⟩

theorem searchIndex_quiet (fp : Fingerprint) (s : State) : QuietWork (searchIndex fp s).1 s :=
  ⟨searchIndex_notices _ _, by simp⟩

theorem raiseTo_quiet (p : Port) (k : EventKind) (s : State) : QuietWork (raiseTo p k s) s :=
  ⟨raiseTo_notices _ _ _, Eq.refl _⟩

theorem slotPut_quiet (n : Nat) (im : SlotImage) (s : State) : QuietWork (slotPut n im s) s :=
  ⟨slotPut_notices _ _ _, Eq.refl _⟩

theorem claimPut_quiet (n : Nat) (r : ClaimRec) (s : State) : QuietWork (claimPut n r s) s :=
  ⟨.of_ports (Eq.refl _), Eq.refl _⟩

theorem setOccupancy_quiet (n : Nat) (s : State) : QuietWork (setOccupancy n s) s :=
  ⟨setOccupancy_notices _ _, by simp⟩

theorem addReferences_quiet (slot : Nat) (st : EntryState) (n : Nat) (s : State) :
    QuietWork (addReferences slot st n s).1 s := by
  unfold addReferences
  split
  · exact slotPut_quiet _ _ _
  · exact slotPut_quiet _ _ _
  · exact .rfl

theorem countHit_quiet (ns : Nat) (l : Location) (s : State) : QuietWork (countHit ns l s) s :=
  (countNs_quiet _ _ _ _).trans ((countNs_quiet _ _ _ _).trans (countNs_quiet _ _ _ _))

theorem requestWaiter_quiet (w : Waiter) (c : BitVec 16) (s : State) : QuietWork (requestWaiter w c s).1 s := by
  unfold requestWaiter
  split
  · exact .rfl
  · split
    · exact (countNs_quiet _ _ _ _).trans (claimPut_quiet _ _ _)
    · exact .rfl

theorem insertEntry_quiet (w : Waiter) (fp : Fingerprint) (s : State) : QuietWork (insertEntry w fp s).1 s := by
  unfold insertEntry
  split
  · exact .rfl
  · split
    · exact .rfl
    · exact (countNs_quiet _ _ _ _).trans ((countNs_quiet _ _ _ _).trans
        ((setOccupancy_quiet _ _).trans ((slotPut_quiet _ _ _).trans (claimPut_quiet _ _ _))))

theorem lookupMatch_quiet (w : Waiter) (wait : Bool) (slot : Nat) (s : State) :
    QuietWork (lookupMatch w wait slot s).1 s := by
  unfold lookupMatch
  dsimp only
  split
  · split
    · exact requestWaiter_quiet _ _ _
    · exact .rfl
  · exact (countHit_quiet _ _ _).trans (addReferences_quiet _ _ _ _)
  · exact (countHit_quiet _ _ _).trans (addReferences_quiet _ _ _ _)
  · exact (countHit_quiet _ _ _).trans (addReferences_quiet _ _ _ _)
  · exact .rfl

/-- A LOOKUP's work changes port units by notices alone (R25 to R30). -/
theorem lookupCore_quiet (w : Waiter) (fp : Fingerprint) (wait : Bool) (s : State) :
    QuietWork (lookupCore w fp wait s).1 s := by
  unfold lookupCore
  split
  · exact .rfl
  · dsimp only
    split
    · exact (lookupMatch_quiet _ _ _ _).trans (searchIndex_quiet _ _)
    · exact (insertEntry_quiet _ _ _).trans (searchIndex_quiet _ _)

/-- A PROBE's work changes port units by notices alone (R31). -/
theorem probeCore_quiet (fp : Fingerprint) (s : State) : QuietWork (probeCore fp s).1 s := by
  unfold probeCore
  split
  · exact .rfl
  · dsimp only
    split <;> exact searchIndex_quiet _ _

/-- A RELEASE's work changes port units by notices alone (R34 to R36). -/
theorem releaseCore_quiet (p : Port) (ns : Nat) (fp : Fingerprint) (n : Nat) (s : State) :
    QuietWork (releaseCore p ns fp n s).1 s := by
  have stored : ∀ slot (s : State), QuietWork (releaseStored p ns slot n s).1 s := by
    intro slot s
    unfold releaseStored
    dsimp only
    split
    · exact raiseTo_quiet _ _ _
    · dsimp only
      split
      · exact (countNs_quiet _ _ _ _).trans ((countNs_quiet _ _ _ _).trans (slotPut_quiet _ _ _))
      · exact (countNs_quiet _ _ _ _).trans (slotPut_quiet _ _ _)
  unfold releaseCore
  split
  · exact .rfl
  · dsimp only
    split
    · exact searchIndex_quiet _ _
    · split
      · exact (stored _ _).trans (searchIndex_quiet _ _)
      · exact (raiseTo_quiet _ _ _).trans (searchIndex_quiet _ _)
      all_goals exact searchIndex_quiet _ _

end Sys2Proof.Machine
end

