-- ==== Sys2Proof/Laws/TablesOk.lean ====
section
/-! SUPPORT. Every shared operation keeps the tables in canonical form. -/

namespace Sys2Proof.Machine

theorem updPort_tablesOk {s : State} (p : Port) (g : PortUnit → PortUnit) (h : TablesOk s) : TablesOk (updPort p g s) :=
  h.of_same (by simp) (by simp) (by simp) (by simp) (by simp) (by simp)

theorem updPorts_tablesOk {s : State} (g : Port → PortUnit → PortUnit) (h : TablesOk s) : TablesOk (updPorts g s) :=
  h.of_same (by simp) (by simp) (by simp) (by simp) (by simp) (by simp)

theorem raiseTo_tablesOk {s : State} (p : Port) (k : EventKind) (h : TablesOk s) : TablesOk (raiseTo p k s) :=
  h.of_same (by simp) (by simp) (by simp) (by simp) (by simp) (by simp)

theorem raiseAll_tablesOk {s : State} (k : EventKind) (h : TablesOk s) : TablesOk (raiseAll k s) :=
  h.of_same (by simp) (by simp) (by simp) (by simp) (by simp) (by simp)

theorem raiseOthers_tablesOk {s : State} (p : Port) (k : EventKind) (h : TablesOk s) : TablesOk (raiseOthers p k s) :=
  h.of_same (by simp) (by simp) (by simp) (by simp) (by simp) (by simp)

theorem evalOccupancy_tablesOk {s : State}  (h : TablesOk s) : TablesOk (evalOccupancy s) :=
  h.of_same (by simp) (by simp) (by simp) (by simp) (by simp) (by simp)

theorem setOccupancy_tablesOk {s : State} (n : Nat) (h : TablesOk s) : TablesOk (setOccupancy n s) :=
  h.of_same (by simp) (by simp) (by simp) (by simp) (by simp) (by simp)

theorem evalContainersLow_tablesOk {s : State}  (h : TablesOk s) : TablesOk (evalContainersLow s) :=
  h.of_same (by simp) (by simp) (by simp) (by simp) (by simp) (by simp)

theorem updEntry_tablesOk {s : State} (p : Port) (tag : Tag) (g : QEntry → QEntry) (h : TablesOk s) : TablesOk (updEntry p tag g s) :=
  h.of_same (by simp) (by simp) (by simp) (by simp) (by simp) (by simp)

theorem markTaken_tablesOk {s : State} (p : Port) (tag : Tag) (h : TablesOk s) : TablesOk (markTaken p tag s) :=
  h.of_same (by simp) (by simp) (by simp) (by simp) (by simp) (by simp)

theorem respond_tablesOk {s : State} (p : Port) (r : Response) (h : TablesOk s) : TablesOk (respond p r s) :=
  h.of_same (by simp) (by simp) (by simp) (by simp) (by simp) (by simp)

theorem seeSymbols_tablesOk {s : State} (p : Port) (h : TablesOk s) : TablesOk (seeSymbols p s) :=
  h.of_same (by simp) (by simp) (by simp) (by simp) (by simp) (by simp)

theorem answer_tablesOk {s : State} (p : Port) (tag : Tag) (mark : Session) (a : Answer) (h : TablesOk s) : TablesOk (answer p tag mark a s) :=
  h.of_same (by simp) (by simp) (by simp) (by simp) (by simp) (by simp)

theorem answerEntry_tablesOk {s : State} (p : Port) (e : QEntry) (a : Answer) (h : TablesOk s) : TablesOk (answerEntry p e a s) :=
  h.of_same (by simp) (by simp) (by simp) (by simp) (by simp) (by simp)

theorem enterOnline_tablesOk {s : State} (p : Port) (h : TablesOk s) : TablesOk (enterOnline p s) :=
  h.of_same (by simp) (by simp) (by simp) (by simp) (by simp) (by simp)

theorem evalAdmission_tablesOk {s : State} (p : Port) (h : TablesOk s) : TablesOk (evalAdmission p s) :=
  h.of_same (by simp) (by simp) (by simp) (by simp) (by simp) (by simp)

theorem evalAdmissions_tablesOk {s : State}  (h : TablesOk s) : TablesOk (evalAdmissions s) :=
  h.of_same (by simp) (by simp) (by simp) (by simp) (by simp) (by simp)

theorem dropWaitingFormat_tablesOk {s : State} (p : Port) (h : TablesOk s) : TablesOk (dropWaitingFormat p s) := by
  unfold dropWaitingFormat
  repeat' split
  all_goals exact h

theorem takeLoss_tablesOk {s : State} (p : Port) (h : TablesOk s) : TablesOk (takeLoss p s) :=
  h.of_same (by simp) (by simp) (by simp) (by simp) (by simp) (by simp)

theorem tick_tablesOk {s : State} (y : Four Bool) (h : TablesOk s) : TablesOk (tick y s) :=
  TablesOk.of_same (s := s) h (by simp [tick, tickTime, allPorts]) (by simp [tick, tickTime, allPorts])
    (by simp [tick, tickTime, allPorts]) (by simp [tick, tickTime, allPorts]) (by simp [tick, tickTime, allPorts])
    (by simp [tick, tickTime, allPorts])

theorem takeEviction_tablesOk {s : State} (p : Port) (h : TablesOk s) : TablesOk (takeEviction p s) :=
  h.of_same (by simp) (by simp) (by simp) (by simp) (by simp) (by simp)

theorem sendBte_tablesOk {s : State} (m : BteMessage) (h : TablesOk s) : TablesOk (sendBte m s) := h

theorem presentItem_tablesOk {s : State} (h : TablesOk s) : TablesOk (presentItem s) := by
  unfold presentItem
  repeat' split
  all_goals exact h

theorem answerWaiter_tablesOk {s : State} (w : Waiter) (o : IndexOutcome) (h : TablesOk s) :
    TablesOk (answerWaiter w o s) := by
  unfold answerWaiter
  split
  · exact answer_tablesOk _ _ _ _ h
  · exact sendBte_tablesOk _ h

theorem countNs_tablesOk {s : State} (ns : Nat) (c : NsCounter) (n : Nat) (h : TablesOk s) :
    TablesOk (countNs ns c n s) := by
  unfold countNs
  split
  · exact countOne_tablesOk _ _ h
  · exact h

theorem countPort_tablesOk {s : State} (p : Port) (c : PortCounter) (n : Nat) (h : TablesOk s) :
    TablesOk (countPort p c n s) := countOne_tablesOk _ _ h

theorem placeChunk_tablesOk {s : State} (c offset length : Nat) (h : TablesOk s) :
    TablesOk (placeChunk c offset length s) := containerPut_tablesOk _ _ h

theorem departEntry_tablesOk {s : State} (c length : Nat) (h : TablesOk s) : TablesOk (departEntry c length s) :=
  containerPut_tablesOk _ _ h

theorem departLocation_tablesOk {s : State} (l : Location) (h : TablesOk s) : TablesOk (departLocation l s) :=
  departEntry_tablesOk _ _ h

theorem gainEntry_tablesOk {s : State} (l : Location) (h : TablesOk s) : TablesOk (gainEntry l s) :=
  containerPut_tablesOk _ _ h

theorem transferEntry_tablesOk {s : State} (a b : Location) (h : TablesOk s) : TablesOk (transferEntry a b s) :=
  departLocation_tablesOk _ (gainEntry_tablesOk _ h)

theorem parkWaiter_tablesOk {s : State} (n : Nat) (w : Waiter) (h : TablesOk s) : TablesOk (parkWaiter n w s) :=
  claimPut_tablesOk _ _ h

theorem repairUnclaimed_tablesOk {s : State} (n : Nat) (h : TablesOk s) : TablesOk (repairUnclaimed n s) := by
  unfold repairUnclaimed
  dsimp only
  repeat' split
  · exact raiseAll_tablesOk _ (setOccupancy_tablesOk _ (slotPut_tablesOk _ _ h))
  · exact raiseAll_tablesOk _ (slotPut_tablesOk _ _ h)
  · exact raiseAll_tablesOk _ (slotPut_tablesOk _ _ h)
  · exact raiseAll_tablesOk _ (setOccupancy_tablesOk _ (slotPut_tablesOk _ _ h))
  · exact raiseAll_tablesOk _ (slotPut_tablesOk _ _ h)

theorem verifySlot_tablesOk {s : State} (n : Nat) (h : TablesOk s) : TablesOk (verifySlot n s) := by
  unfold verifySlot
  repeat' split
  · exact h
  · exact slotPut_tablesOk _ _ h
  · exact repairUnclaimed_tablesOk _ h

theorem searchFrom_tablesOk {s : State} (fp : Fingerprint) (ns : List Nat) (h : TablesOk s) :
    TablesOk (searchFrom fp ns s).1 := by
  induction ns generalizing s with
  | nil => unfold searchFrom; exact h
  | cons n rest ih =>
    unfold searchFrom
    split
    · exact verifySlot_tablesOk n h
    · exact ih (verifySlot_tablesOk n h)

theorem searchIndex_tablesOk {s : State} (fp : Fingerprint) (h : TablesOk s) : TablesOk (searchIndex fp s).1 :=
  searchFrom_tablesOk _ _ h

theorem handOver_tablesOk {s : State} (n : Nat) (w : Waiter) (rest : List Waiter) (h : TablesOk s) :
    TablesOk (handOver n w rest s) :=
  answerWaiter_tablesOk _ _ (countNs_tablesOk _ _ _ (claimPut_tablesOk _ _ h))

theorem closeClaim_tablesOk {s : State} (n : Nat) (h : TablesOk s) : TablesOk (closeClaim n s) := by
  have h2 := claimPut_tablesOk n
    { claimGet s n with phase := .closing, claimant := none, deadline := 0, details := none } h
  exact h2

theorem releaseClaim_tablesOk {s : State} (n : Nat) (h : TablesOk s) : TablesOk (releaseClaim n s) := by
  unfold releaseClaim
  split
  · exact closeClaim_tablesOk _ h
  · exact handOver_tablesOk _ _ _ h

theorem expireClaim_tablesOk {s : State} (n : Nat) (h : TablesOk s) : TablesOk (expireClaim n s) := by
  unfold expireClaim
  split
  · exact releaseClaim_tablesOk _ h
  · exact releaseClaim_tablesOk _ (countPort_tablesOk _ _ _ (raiseTo_tablesOk _ _ h))

theorem tryAdmit_tablesOk {s : State} (p : Port) (code : Byte) (k : Option Kind) (f : RequestFrame) (h : TablesOk s) :
    TablesOk (tryAdmit p code k f s).1 := by
  unfold tryAdmit
  dsimp only
  repeat' split
  · exact respond_tablesOk _ _ (countPort_tablesOk _ _ _ h)
  · exact respond_tablesOk _ _ h
  · exact respond_tablesOk _ _ h
  · exact updPort_tablesOk _ _ h

theorem arrive_tablesOk {s : State} (p : Port) (code : Byte) (k : Option Kind) (f : RequestFrame) (h : TablesOk s) :
    TablesOk (arrive p code k f s).1 := by
  unfold arrive
  repeat' split
  · exact h
  · exact seeSymbols_tablesOk p h
  · exact tryAdmit_tablesOk _ _ _ _ (countPort_tablesOk _ _ _ (seeSymbols_tablesOk p h))

/-- Power-on keeps the tables in canonical form, wherever the modules stand now (R172). -/
theorem startPart_tablesOk {s : State} (inputs : StartInputs) (h : TablesOk s) : TablesOk (startPart inputs s) :=
  ⟨moveModules_wf inputs.stood h.1, rfl, rfl, rfl, rfl, rfl⟩

/-- A request's taking keeps the tables where what its block does keeps them. -/
theorem takeRequest_tablesOk {s : State} (k : Kind) {act : Port → QEntry → State → State} (p : Port) (tag : Tag)
    (hact : ∀ e s, TablesOk s → TablesOk (act p e s)) (h : TablesOk s) : TablesOk (takeRequest k act p tag s) := by
  unfold takeRequest
  repeat' split
  · exact h
  · exact answerEntry_tablesOk _ _ _ h
  · exact hact _ _ h

theorem runRequest_tablesOk {s : State} (k : Kind) {act : Port → QEntry → State → State} (p : Port) (st : RequestStep)
    (hact : ∀ e s, TablesOk s → TablesOk (act p e s)) (h : TablesOk s) : TablesOk (runRequest k act p st s) := by
  unfold runRequest
  dsimp only
  repeat' split
  · exact takeRequest_tablesOk k p _ hact (arrive_tablesOk _ _ _ _ h)
  · exact arrive_tablesOk _ _ _ _ h
  · exact arrive_tablesOk _ _ _ _ h
  · exact takeRequest_tablesOk k p _ hact h

theorem answering_tablesOk {g : Port → QEntry → State → State × Answer} {p : Port}
    (hg : ∀ e s, TablesOk s → TablesOk (g p e s).1) (e : QEntry) (s : State) (h : TablesOk s) :
    TablesOk (answering g p e s) := answerEntry_tablesOk _ _ _ (hg e s h)

theorem fixOutcome_tablesOk {work : Port → QEntry → State → State × Answer} {p : Port}
    (hw : ∀ e s, TablesOk s → TablesOk (work p e s).1) (e : QEntry) (s : State) (h : TablesOk s) :
    TablesOk (fixOutcome work p e s) := (hw e s h).of_same rfl rfl rfl rfl rfl rfl

theorem handOutcome_tablesOk {s : State} (k : Kind) (p : Port) (tag : Tag) (h : TablesOk s) :
    TablesOk (handOutcome k p tag s) := by
  unfold handOutcome
  split
  · exact h
  · exact answer_tablesOk _ _ _ _ (h.of_same rfl rfl rfl rfl rfl rfl)

/-- A container request keeps the tables, by whichever of its events, where its work does. -/
theorem runContainer_tablesOk {s : State} (k : Kind) {work : Port → QEntry → State → State × Answer} (p : Port)
    (st : ContainerStep) (hw : ∀ e s, TablesOk s → TablesOk (work p e s).1) (h : TablesOk s) :
    TablesOk (runContainer k work p st s) := by
  cases st with
  | request r => exact runRequest_tablesOk k p r (answering_tablesOk hw) h
  | fix tag => exact takeRequest_tablesOk k p tag (fixOutcome_tablesOk hw) h
  | hand tag => exact handOutcome_tablesOk k p tag h

theorem applyParam_tablesOk {s : State} (q : Param) (h : TablesOk s) : TablesOk (applyParam q s) := by
  unfold applyParam
  repeat' split
  all_goals first | exact evalOccupancy_tablesOk h | exact evalContainersLow_tablesOk h | exact h

theorem changeTaken_tablesOk {s : State} (c : ParamChange) (h : TablesOk s) : TablesOk (changeTaken c s) := by
  unfold changeTaken
  exact answer_tablesOk _ _ _ _ (applyParam_tablesOk (s := forceParam _ _ s) _ h)

theorem ownChange_tablesOk {s : State} (p : Port) (q : Param) (h : TablesOk s) : TablesOk (ownChange p q s) := by
  unfold ownChange
  repeat' split
  all_goals first | exact changeTaken_tablesOk (s := setChanges _ s) _ h | exact h

theorem unitChange_tablesOk {s : State} (p u : Port) (h : TablesOk s) : TablesOk (unitChange p u s) := by
  unfold unitChange
  repeat' split
  all_goals first | exact changeTaken_tablesOk (s := setChanges _ s) _ h | exact h

/-- The settings area is written with a fresh check, and its namespaces as they were (R173, R178). -/
theorem handChange_tablesOk {p : Port} (e : QEntry) (s : State) (h : TablesOk s) : TablesOk (handChange p e s) := by
  unfold handChange
  split
  · next q v _ =>
    have : TablesOk (writeParam q v (markTaken p e.tag s)) :=
      updMem_tablesOk (fun m hm => memSettings_wf hm ((IndexMemory.wf_iff m).mp hm).2.2.1) (markTaken_tablesOk _ _ h)
    exact this.of_same rfl rfl rfl rfl rfl rfl
  · exact answerEntry_tablesOk _ _ _ h

theorem foldl_tablesOk {α : Type} {f : State → α → State} (hf : ∀ s a, TablesOk s → TablesOk (f s a)) (l : List α)
    {s : State} (h : TablesOk s) : TablesOk (l.foldl f s) := by
  induction l generalizing s with
  | nil => exact h
  | cons a r ih => exact ih (hf _ _ h)

theorem ownWhole_tablesOk {s : State} (p : Port) (q : Param) (h : TablesOk s) : TablesOk (ownWhole p q s) := by
  unfold ownWhole
  split
  · exact foldl_tablesOk (fun s u h => unitChange_tablesOk _ u h) _ h
  · exact ownChange_tablesOk _ _ h

theorem takeParameter_tablesOk {p : Port} (e : QEntry) (s : State) (h : TablesOk s) : TablesOk (takeParameter p e s) := by
  have hh := handChange_tablesOk (p := p) e s h
  unfold takeParameter doWhen
  split
  · split
    · exact ownWhole_tablesOk p _ hh
    · exact hh
  · exact hh

/-- A turn keeps the tables where grant and finish do. -/
theorem runTurn_tablesOk {s : State} {grant : State → Option (State × Turn)} {finish : Turn → State → State}
    {mine : Turn → Bool} (st : OpStep) (hg : ∀ g, grant s = some g → TablesOk g.1)
    (hf : ∀ t s, TablesOk s → TablesOk (finish t s)) (h : TablesOk s) : TablesOk (runTurn grant finish mine st s) := by
  unfold runTurn
  repeat' split
  all_goals first | exact h | exact hf _ _ h | exact hf _ _ (hg _ (by assumption)) | exact hg _ (by assumption)

end Sys2Proof.Machine
end

