-- ==== Sys2Proof/Laws/Walks.lean ====
section
/-! SUPPORT. What each write of index memory and each step of a recovery or FORMAT walk does to its fields. -/

namespace Sys2Proof.Machine

/-! ## Writes of one area -/

@[simp] theorem memHeader_fields (g : Header → Header) (m : IndexMemory) :
    (memHeader g m).header = headerFresh (g m.header) ∧ (memHeader g m).slots = m.slots ∧
    (memHeader g m).settings = m.settings ∧ (memHeader g m).settingsCheck = m.settingsCheck ∧
    (memHeader g m).containers = m.containers ∧ (memHeader g m).containersCheck = m.containersCheck := by
  exact ⟨rfl, rfl, rfl, rfl, rfl, rfl⟩

@[simp] theorem headerFresh_fields (h : Header) :
    (headerFresh h).mark = h.mark ∧ (headerFresh h).capacity = h.capacity ∧
    (headerFresh h).startCount = h.startCount ∧ (headerFresh h).clock = h.clock := by
  exact ⟨rfl, rfl, rfl, rfl⟩

theorem headerBytes_fresh (h : Header) : headerBytes (headerFresh h) = headerBytes h := by simp [headerBytes]

/-- A header written holds its check (R173). -/
theorem headerFresh_check (h : Header) : (headerFresh h).check = crc16 (headerBytes (headerFresh h)) := by
  rw [headerBytes_fresh]; simp [headerFresh]

@[simp] theorem memSettings_fields (v : Settings) (m : IndexMemory) :
    (memSettings v m).header = m.header ∧ (memSettings v m).slots = m.slots ∧ (memSettings v m).settings = v ∧
    (memSettings v m).settingsCheck = settingsCheckOf v ∧ (memSettings v m).containers = m.containers ∧
    (memSettings v m).containersCheck = m.containersCheck := by
  simp [memSettings]

@[simp] theorem memContainers_fields (t : List (Nat × ContainerRec)) (m : IndexMemory) :
    (memContainers t m).header = m.header ∧ (memContainers t m).slots = m.slots ∧
    (memContainers t m).settings = m.settings ∧ (memContainers t m).settingsCheck = m.settingsCheck ∧
    (memContainers t m).containers = t ∧ (memContainers t m).containersCheck = areaCheck t := by
  simp [memContainers]

/-! ## The steps of recovery (R175) -/

@[simp] theorem stepIf_true (g : IndexMemory → IndexMemory) (m : IndexMemory) : stepIf true g m = g m := rfl

@[simp] theorem stepIf_false (g : IndexMemory → IndexMemory) (m : IndexMemory) : stepIf false g m = m := rfl

@[simp] theorem recoverStartCount_fields (m : IndexMemory) :
    (recoverStartCount m).header = headerFresh { m.header with startCount := m.header.startCount + 1#16 } ∧
    (recoverStartCount m).slots = m.slots ∧ (recoverStartCount m).settings = m.settings ∧
    (recoverStartCount m).settingsCheck = m.settingsCheck ∧ (recoverStartCount m).containers = m.containers ∧
    (recoverStartCount m).containersCheck = m.containersCheck := by
  simp [recoverStartCount]

@[simp] theorem recoverClock_fields (m : IndexMemory) :
    (recoverClock m).header = headerFresh { m.header with clock := resumedClock m.header.clock } ∧
    (recoverClock m).slots = m.slots ∧ (recoverClock m).settings = m.settings ∧
    (recoverClock m).settingsCheck = m.settingsCheck ∧ (recoverClock m).containers = m.containers ∧
    (recoverClock m).containersCheck = m.containersCheck := by
  simp [recoverClock]

/-- The clock that recovery loads, as a number (R92). -/
theorem resumedClock_toNat (c : BitVec 40) : (resumedClock c).toNat = min (2 ^ 40 - 1) (c.toNat + 60) := by
  simp [resumedClock, Config.clockMax, Config.clockSaveSeconds]

@[simp] theorem recoverSettings_fields (m : IndexMemory) :
    (recoverSettings m).header = m.header ∧ (recoverSettings m).slots = m.slots ∧
    (recoverSettings m).containers = m.containers ∧ (recoverSettings m).containersCheck = m.containersCheck := by
  unfold recoverSettings
  split <;> simp

/-- Settings whose check holds stay as they are (R175). -/
theorem recoverSettings_hold {m : IndexMemory} (h : m.settingsCheck = settingsCheckOf m.settings) :
    recoverSettings m = m := by
  simp [recoverSettings, settingsHold, h]

/-- Settings whose check fails are written with the defaults (R175). -/
theorem recoverSettings_fail {m : IndexMemory} (h : m.settingsCheck ≠ settingsCheckOf m.settings) :
    recoverSettings m = memSettings defaultSettings m := by
  simp [recoverSettings, settingsHold, h]

@[simp] theorem recoverSlots_fields (ds : Four Descriptor) (limit : Option Nat) (m : IndexMemory) :
    (recoverSlots ds limit m).header = m.header ∧ (recoverSlots ds limit m).settings = m.settings ∧
    (recoverSlots ds limit m).settingsCheck = m.settingsCheck ∧
    (recoverSlots ds limit m).containers = m.containers ∧
    (recoverSlots ds limit m).containersCheck = m.containersCheck := by
  exact ⟨rfl, rfl, rfl, rfl, rfl⟩

@[simp] theorem recoverArea_fields (ds : Four Descriptor) (m : IndexMemory) :
    (recoverArea ds m).header = m.header ∧ (recoverArea ds m).slots = m.slots ∧
    (recoverArea ds m).settings = m.settings ∧ (recoverArea ds m).settingsCheck = m.settingsCheck := by
  simp [recoverArea]

theorem walkImage_free : walkImage SlotImage.free = SlotImage.free := by decide

/-- The slot of a place after recovery's walk: walked where the walk has come so far (R175). -/
theorem recoverSlots_get (ds : Four Descriptor) (limit : Option Nat) {m : IndexMemory} (k : Nat) (h : m.wf = true) :
    tableGet SlotImage.free (recoverSlots ds limit m).slots k =
      if walked ds limit k = true then walkImage (tableGet SlotImage.free m.slots k)
      else tableGet SlotImage.free m.slots k := by
  refine tableGet_map _ (fun k im => if walked ds limit k = true then walkImage im else im) _ k ?_
    ((IndexMemory.wf_iff m).mp h).1
  simp [walkImage_free]

/-- The slots that a cut walk has done (log 19). -/
theorem walked_walkLimit (ds : Four Descriptor) (w : WalkPoint) (n k : Nat) :
    walked ds (walkLimit w n) k = true ↔ ∃ i, slotNumber ds k = some i ∧ (n ≤ w.stage ∨ i < w.slot) := by
  unfold walked walkLimit
  cases slotNumber ds k with
  | none => simp
  | some i => by_cases h : n ≤ w.stage <;> simp [h]

/-! ## The steps of FORMAT (R176) -/

@[simp] theorem formatSlots_fields (ds : Four Descriptor) (limit : Option Nat) (m : IndexMemory) :
    (formatSlots ds limit m).header = m.header ∧ (formatSlots ds limit m).settings = m.settings ∧
    (formatSlots ds limit m).settingsCheck = m.settingsCheck ∧
    (formatSlots ds limit m).containers = m.containers ∧
    (formatSlots ds limit m).containersCheck = m.containersCheck := by
  exact ⟨rfl, rfl, rfl, rfl, rfl⟩

/-- The slot of a place after FORMAT's walk: FREE where the walk has come so far (R176). -/
theorem formatSlots_get (ds : Four Descriptor) (limit : Option Nat) (m : IndexMemory) (k : Nat) :
    tableGet SlotImage.free (formatSlots ds limit m).slots k =
      if walked ds limit k = true then SlotImage.free else tableGet SlotImage.free m.slots k := by
  unfold formatSlots
  dsimp only
  rw [tableGet_filter SlotImage.free (fun k => !walked ds limit k)]
  cases walked ds limit k <;> simp

@[simp] theorem formatArea_fields (m : IndexMemory) :
    (formatArea m).header = m.header ∧ (formatArea m).slots = m.slots ∧ (formatArea m).settings = m.settings ∧
    (formatArea m).settingsCheck = m.settingsCheck ∧ (formatArea m).containers = [] ∧
    (formatArea m).containersCheck = areaCheck [] := by
  simp [formatArea]

@[simp] theorem formatSettings_fields (m : IndexMemory) :
    (formatSettings m).header = m.header ∧ (formatSettings m).slots = m.slots ∧
    (formatSettings m).settings = defaultSettings ∧
    (formatSettings m).settingsCheck = settingsCheckOf defaultSettings ∧
    (formatSettings m).containers = m.containers ∧ (formatSettings m).containersCheck = m.containersCheck := by
  simp [formatSettings]

/-! ## Whole walks -/

@[simp] theorem enterReady_mem (s : State) : (enterReady s).mem = s.mem := by simp [enterReady]

@[simp] theorem recoverHeader_mem (s : State) :
    (recoverHeader s).mem = recoverSettings (recoverClock (recoverStartCount s.mem)) ∧
      (recoverHeader s).mif.descriptors = s.mif.descriptors := by
  simp [recoverHeader, loadSettings]

/-- What a whole recovery leaves in index memory: its six steps (R175). -/
theorem recover_mem (s : State) :
    (recover s).mem =
      recoverArea s.mif.descriptors
        (recoverSlots s.mif.descriptors none (recoverSettings (recoverClock (recoverStartCount s.mem)))) := by
  unfold recover recoverIndex
  dsimp only
  split <;> simp [rebuildCtu]

@[simp] theorem cutWalk_frame (w : WalkPoint) (s : State) :
    (cutWalk w s).pending = s.pending ∧ (cutWalk w s).powered = s.powered ∧ (cutWalk w s).ports = s.ports ∧
    (cutWalk w s).ixc = s.ixc ∧ (cutWalk w s).clu = s.clu ∧ (cutWalk w s).ctu = s.ctu ∧
    (cutWalk w s).bte = s.bte ∧ (cutWalk w s).swp = s.swp ∧ (cutWalk w s).tmb = s.tmb ∧
    (cutWalk w s).nst = s.nst ∧ (cutWalk w s).stu = s.stu ∧ (cutWalk w s).mif = s.mif ∧
    (cutWalk w s).params = s.params ∧ (cutWalk w s).linkOut = s.linkOut := by
  unfold cutWalk
  split <;> simp

end Sys2Proof.Machine
end

