-- ==== Sys2Proof/Tests/Slice0.lean ====
section
/-! SUPPORT. Tests: the well-formedness check, the conditions of the statements met by small states, and single steps. -/

namespace Sys2Proof.Machine.Tests

set_option Elab.async false

/-! ## Small states -/

/-- One module of 2^24 slots; port k at privilege k. -/
def inputs : StartInputs :=
  { straps := ⟨0#2, 1#2, 2#2, 3#2⟩, descriptors := ⟨⟨0x01#8, 0xFE#8⟩, ⟨0#8, 0xFF#8⟩, ⟨0#8, 0xFF#8⟩, ⟨0#8, 0xFF#8⟩⟩,
    stood := StartInputs.unmoved }

/-- A part after its start in an index state, every port DOWN. -/
def started (st : IndexState) : State := State.afterReset [] ⟨[], [], [], []⟩ IndexMemory.blank inputs st

/-- A READY part with ports 0 and 1 ONLINE. -/
def ready : State :=
  updPort .p1 (fun u => { u with state := .online }) (updPort .p0 (fun u => { u with state := .online }) (started .ready))

/-- A request of port 0 under tag 7, as it is queued. -/
def entry (r : Request) : QEntry :=
  { tag := 7#16, kind := requestKind r, ns := 0, request := r, phase := requestPhase .p0 r, context := none,
    mark := 0#16, taken := false }

/-- The state with one request queued at port 0. -/
def queuing (r : Request) (s : State) : State := updPort .p0 (fun u => { u with queue := [entry r] }) s

/-- The fingerprint 1: home bucket 0, alternate bucket 1. -/
def fp : Fingerprint := 1#256

/-- A location in container 5. -/
def loc : Location := { container := 5#16, offset := 0#32, length := 100#32 }

/-- An entry of the fingerprint 1 in slot 0. -/
def holding (st : EntryState) (refcount : BitVec 16) (s : State) : State :=
  slotPut 0 (imageCounted st fp refcount loc 0#8 0#40) s

/-- A claim record HELD by a single LOOKUP of port 0, with a deadline of 100. -/
def claim : ClaimRec :=
  { phase := .held, generation := 3#32, position := 0, fp := fp,
    claimant := some { port := .p0, ns := 0, origin := .single 9#16 0#16 }, deadline := 100, handover := 0,
    details := none, waiters := [] }

/-- Claim 0 in a record, its PENDING entry in slot 0. -/
def claiming (r : ClaimRec) (s : State) : State := claimPut 0 r (slotPut 0 (imagePending fp 0) s)

/-- A container record of port 0. -/
def container (st : ContainerState) (fill live : Nat) : ContainerRec :=
  { state := st, owner := .p0, fill := fill, live := live, bytes := 0 }

/-- A RUNNING context of port 0 with one item. -/
def context : Context :=
  { phase := .running, port := .p0, tag := 7#16, mark := 0#16, kind := .lookup, ns := 0, wait := true,
    items := [{ fp := fp, n := 0 }], cursor := 0, outcomes := [.untaken], parked := 0, cancelled := false,
    withdrawal := false }

/-- A frame of a request under tag 9. -/
def frame (r : Request) : RequestFrame := requestFrame r 0 9#16

/-- A test on the next state; false on a fault or refusal. -/
def onNext (o : Result) (test : State → Bool) : Bool :=
  match o with
  | .next t => test t
  | _ => false

/-! ## Well-formedness: an ill-formed command for each check -/

theorem test_wf_bad_frame_needs_a_bad_frame :
    (Instr.badFrame .p0 (.whole (requestBytes 0x01#8 (frame .identify)))).wf = false := by decide +kernel

theorem test_wf_frame_must_cross_whole :
    (Instr.probe .p0 { frame .identify with body := List.replicate 8180 0#8 }).wf = false ∧
      (Instr.identify .p0 (.whole { frame .identify with body := List.replicate 8180 0#8 })).wf = false ∧
      (Instr.identify .p0 (.arrive { frame .identify with body := List.replicate 8180 0#8 })).wf = false ∧
      (Instr.setParameter .p0 (.request (.arrive { frame .identify with body := List.replicate 8180 0#8 }))).wf = false := by
  decide +kernel

theorem test_wf_claim_number : (Instr.claimExpiry 1024).wf = false := by decide

theorem test_wf_walk_point :
    (Instr.powerLoss { stage := 7, slot := 0 }).wf = false ∧
      (Instr.restartReset inputs { stage := 7, slot := 0 }).wf = false := by decide

theorem test_wf_module_stood_in_one_slot :
    (Instr.powerOn { inputs with stood := ⟨some .p0, some .p0, none, none⟩ }).wf = false ∧
      (Instr.restartReset { inputs with stood := ⟨none, some .p3, none, some .p3⟩ } { stage := 0, slot := 0 }).wf = false ∧
      (Instr.powerOn inputs).wf = true ∧
      (Instr.powerOn { inputs with stood := ⟨some .p1, some .p0, none, none⟩ }).wf = true := by decide

theorem test_wf_unknown_code : (Instr.unknownKindCode .p0 0x01#8 (frame .identify)).wf = false := by decide +kernel

theorem test_wf_holds :
    (Instr.unknownKindCode .p0 0x00#8 (frame .identify)).wf = true ∧ (Instr.badFrame .p0 (.cut [])).wf = true ∧
      (Instr.claimExpiry 1023).wf = true ∧ (Instr.lookup .p0 (frame (.lookup fp true))).wf = true := by decide +kernel

/-! ## The conditions of the statements are met: start, arrival, answers -/

/-- A frame that meets no check of its own. -/
def spoiled : RequestFrame := { frame .identify with format := 0#8 }

/-- 32 requests at port 0. -/
def full : State :=
  updPort .p0 (fun u => { u with queue := (List.range 32).map (fun i => { entry .identify with tag := BitVec.ofNat 16 i }) })
    ready

/-- 32 responses at port 0. -/
def listed : State :=
  updPort .p0 (fun u => { u with responses := List.replicate 32 { kind := 1#8, tag := 0#16, answer := .done .none } }) ready

theorem test_met_power :
    State.reset.powered = true ∧ State.reset.mif.indexState ≠ .recovering ∧ State.reset.mif.indexState ≠ .formatting ∧
      { State.reset with powered := false }.powered = false ∧ capacityOf unfittedInputs.descriptors = 0 ∧
      capacityOf inputs.descriptors = 16777216 ∧ headerValid IndexMemory.blank.header = false ∧
      headerValid (formatHeader inputs.descriptors 0#16 IndexMemory.blank).header = true ∧
      (formatHeader inputs.descriptors 0#16 IndexMemory.blank).header.capacity.toNat = capacityOf inputs.descriptors := by
  decide +kernel

/-- Index memory with a header in module 0, and an entry in the last place of a module 2^26 slots large in slot 1. -/
def spread : IndexMemory :=
  { IndexMemory.blank with
    slots := [(3, imageSuspect SlotImage.free), (134217727, imagePending fp 0)],
    header := { IndexMemory.blank.header with startCount := 5#16 } }

theorem test_met_modules_moved :
    StartInputs.unmoved = ⟨some .p0, some .p1, some .p2, some .p3⟩ ∧
      (moveModules ⟨some .p1, some .p2, none, some .p0⟩ spread).slots =
        [(67108863, imagePending fp 0), (201326595, imageSuspect SlotImage.free)] ∧
      (moveModules ⟨some .p1, some .p2, none, some .p0⟩ spread).header = IndexMemory.blank.header ∧
      (moveModules ⟨some .p1, some .p2, none, some .p0⟩ spread).region3.header.startCount = 5#16 ∧
      (moveModules ⟨some .p0, none, none, none⟩ spread).slots = [(3, imageSuspect SlotImage.free)] := by decide +kernel

/-- Descriptors of a module of 2^26 slots, an invalid one, a module of 2^25 slots above it, and none fitted. -/
def mixed : Four Descriptor := ⟨⟨0x03#8, 0xFC#8⟩, ⟨0x04#8, 0xFB#8⟩, ⟨0x02#8, 0xFD#8⟩, ⟨0x00#8, 0xFF#8⟩⟩

theorem test_module_statuses :
    [moduleStatus mixed .p0, moduleStatus mixed .p1, moduleStatus mixed .p2, moduleStatus mixed .p3] =
        [.counted, .invalid, .ignored, .unfitted] ∧
      capacityOf mixed = 67108864 ∧ capacityOf { mixed with a1 := ⟨0x02#8, 0xFD#8⟩ } = 134217728 ∧
      capacityOf { mixed with a0 := ⟨0x03#8, 0xFD#8⟩ } = 0 := by decide

theorem test_met_arrival :
    Receiving ready .p0 ∧ HasRoom ready .p0 9#16 ∧
      arrivalCheck (frameIn .p0 ready) .p0 (some .identify) (frame .identify) = .ok (.identify, .identify) ∧
      arrivalCheck (frameIn .p0 ready) .p0 (some .identify) spoiled = .error .malformed ∧
      Receiving full .p0 ∧ 32 ≤ (portUnit full .p0).queue.length ∧
      Receiving (queuing .identify ready) .p0 ∧ (portUnit (queuing .identify ready) .p0).queue.length < 32 ∧
      (∃ e ∈ (portUnit (queuing .identify ready) .p0).queue, e.tag = 7#16) := by
  unfold Receiving HasRoom
  decide +kernel

/-- A namespace record at port 1, which is of privilege 1, with namespace 0 in its map. -/
def spaced (st : NsState) (hold : Bool) : State :=
  updPort .p1 (fun u => { u with nsMap := 1#64 }) { ready with nst := tableSet NsRec.zero [] 0 { state := st, hold := hold } }

theorem test_met_checks :
    (portUnit (updPort .p0 (fun u => { u with state := .fenced }) ready) .p0).state = .fenced ∧
      (portUnit ready .p0).state ≠ .fenced ∧ readRequest .identify spoiled = none ∧
      readRequest .lookup (frame (.lookup fp true)) = some (.lookup fp true) ∧ ready.mif.indexState = .ready ∧
      readRequest .drop (frame (.drop { bucket := 2097152, index := 0 })) = some (.drop { bucket := 2097152, index := 0 }) ∧
      bucketCount ready = 2097152 ∧ kindPrivilege .format < (portUnit ready .p1).privilege.toNat ∧
      (portUnit ready .p1).privilege.toNat ≤ kindPrivilege .release ∧ kindAllowed .lookup .unformatted = false ∧
      kindAllowed .lookup .ready = true ∧ kindNsChecked .openContainer = false ∧ kindNsChecked .release = true ∧
      (portUnit ready .p1).nsMap.getLsbD 0 = false ∧ (portUnit (spaced .readOnly true) .p1).nsMap.getLsbD 0 = true ∧
      (tableGet NsRec.zero ready.nst 0).state = .disabled ∧
      (tableGet NsRec.zero (spaced .readOnly true).nst 0).state = .readOnly ∧ kindWrites .lookup = true ∧
      kindWrites .release = false ∧ (tableGet NsRec.zero (spaced .readOnly true).nst 0).hold = true ∧
      kindReleases .release = true ∧ kindReleases .probe = false ∧ readRequest .identify (frame .identify) = some .identify ∧
      requestPosition .identify = none := by
  decide +kernel

theorem test_checks_at_their_boundaries :
    arrivalCheck ready .p0 (some .drop) (frame (.drop { bucket := 2097152, index := 0 })) = .error .malformed ∧
      arrivalCheck ready .p0 (some .drop) (frame (.drop { bucket := 2097151, index := 7 })) =
        .ok (.drop, .drop { bucket := 2097151, index := 7 }) ∧
      arrivalCheck ready .p1 (some .lookup) (frame (.lookup fp true)) = .error .denied ∧
      arrivalCheck (spaced .readOnly true) .p1 (some .lookup) (frame (.lookup fp true)) = .error .readOnly ∧
      arrivalCheck (spaced .readOnly true) .p1 (some .release) (frame (.release fp 1)) = .error .held ∧
      arrivalCheck (spaced .active false) .p1 (some .release) (frame (.release fp 255)) = .ok (.release, .release fp 255) := by
  decide +kernel

theorem test_met_frames :
    kindOfCode 0x00#8 = none ∧ kindOfCode 0x6B#8 = none ∧ Receiving ready .p0 ∧ HasRoom ready .p0 9#16 ∧
      (portUnit ready .p0).state = .online ∧
      (portUnit (updPort .p0 (fun u => { u with state := .fenced }) ready) .p0).state = .fenced ∧
      Receiving (updPort .p0 (fun u => { u with state := .fenced }) ready) .p0 ∧
      HasRoom (updPort .p0 (fun u => { u with state := .fenced }) ready) .p0 9#16 ∧
      listed.powered = true ∧ (portUnit listed .p0).state ≠ .down ∧ 32 ≤ (portUnit listed .p0).responses.length ∧
      (portUnit ready .p2).state = .down ∧ receptionIsBad (.cut []) = true ∧ receptionIsBad .overlong = true ∧
      receptionIsBad (.whole (List.replicate 11 0#8)) = true := by
  unfold Receiving HasRoom
  decide +kernel

theorem test_met_sent_bytes :
    Receiving ready .p0 ∧ (frame (.lookup fp true)).wf = true ∧
      receptionIsBad (.whole (requestBytes (kindCode .lookup) (frame (.lookup fp true)))) = false := by
  unfold Receiving
  decide +kernel

theorem test_met_transmitter :
    ready.powered = true ∧ listed.mif.silenced = false ∧ (portUnit listed .p0).finishing = none ∧
      (portUnit listed .p0).responses ≠ [] ∧
      (portUnit (updPort .p0 (fun u => { u with finishing := some { kind := 1#8, tag := 0#16, answer := .committed } }) ready)
        .p0).finishing = some { kind := 1#8, tag := 0#16, answer := .committed } ∧
      { ready with mif := { ready.mif with silenced := true, silenceMs := 20 } }.mif.silenced = true ∧
      20 ≤ { ready with mif := { ready.mif with silenced := true, silenceMs := 20 } }.mif.silenceMs ∧
      { ready with mif := { ready.mif with silenced := true, silenceMs := 19 } }.mif.silenceMs < 20 ∧
      (portUnit ready .p0).finishing = none ∧ (portUnit ready .p0).responses = [] := by
  decide +kernel

theorem test_idle_symbols_follow_the_silence :
    let s := { ready with mif := { ready.mif with silenced := true, silenceMs := 20 } }
    transmitting s .p0 = .silent ∧ onNext (exec .silenceEnd s) (fun t => decide (transmitting t .p0 = .idle)) = true ∧
      transmitting listed .p0 = .response { kind := 1#8, tag := 0#16, answer := .done .none } := by decide +kernel

theorem test_response_header_and_item :
    (responseBytes { kind := 0x68#8, tag := 0x0107#16, answer := .done (.sequence 5#32) }).take 10 =
        [0x68#8, 0x00#8, 0x01#8, 0x07#8, 0x00#8, 0x04#8, 0x00#8, 0x00#8, 0x00#8, 0x05#8] ∧
      itemRecord (.released 0x0102#16) = [0x04#8, 0x01#8, 0x02#8] ++ List.replicate 9 0#8 ∧
      batchBytes 2 [.probeMiss, .noRoom, .probeMiss] =
        [2#8, 3#8] ++ itemRecord .probeMiss ++ itemRecord .noRoom ++ itemRecord .probeMiss ++
          [2#8, 0x06#8, 2#8, 0x49#8, 1#8] := by decide +kernel

theorem test_met_two_steps :
    Receiving ready .p0 ∧ HasRoom ready .p0 9#16 ∧
      arrivalCheck (frameIn .p0 ready) .p0 (some .identify) (frame .identify) = .ok (.identify, .identify) ∧
      blockCommand .identify .p0 (.whole (frame .identify)) = some (.identify .p0 (.whole (frame .identify))) ∧
      blockCommand .identify .p0 (.take (frame .identify).tag) = some (.identify .p0 (.take 9#16)) ∧
      ready.ixc.inProgress = none ∧
      onNext (exec (.lookupOperation .p0 .grant) (queuing (.lookup fp false) ready))
        (fun t => decide (t.ixc.inProgress ≠ none)) = true := by
  unfold Receiving HasRoom
  decide +kernel

theorem test_met_taken_outside_ready :
    let s := queuing .snapshot (updPort .p0 (fun u => { u with state := .online }) (started .formatting))
    s.powered = true ∧ takeable s .p0 .snapshot 7#16 = some (entry .snapshot) ∧
      kindAllowed .snapshot s.mif.indexState = false ∧ IsQueued s .p0 (entry .snapshot) ∧ s.mif.restartTaken = false ∧
      blockCommand .snapshot .p0 (.take 7#16) = some (.snapshot .p0 (.take 7#16)) := by
  unfold IsQueued
  decide +kernel

theorem test_met_outcomes :
    queued (queuing .snapshot ready) .p0 7#16 = some (entry .snapshot) ∧
      0#16 = (portUnit (queuing .snapshot ready) .p0).session ∧ ready.mif.restartTaken = false ∧
      queued ready .p0 7#16 = none ∧ 1#16 ≠ (portUnit (queuing .snapshot ready) .p0).session := by
  decide +kernel

/-! ## The conditions of the statements are met: requests that a block takes -/

/-- A request that a block takes, queued at port 0 of a READY part, can be taken. -/
theorem canTake_of (r : Request) (s : State) (h : (queuing r s).powered = true)
    (h1 : takeable (queuing r s) .p0 (requestKind r) 7#16 = some (entry r))
    (h2 : kindAllowed (requestKind r) (queuing r s).mif.indexState = true)
    (h3 : 0#16 = (portUnit (queuing r s) .p0).session) (h4 : (queuing r s).mif.restartTaken = false) :
    CanTake (queuing r s) .p0 (entry r) := ⟨h, h1, h2, h3, h4⟩

theorem test_met_status :
    CanTake (queuing .identify ready) .p0 (entry .identify) ∧ CanTake (queuing .portStatus ready) .p0 (entry .portStatus) ∧
      CanTake (queuing .indexStatus ready) .p0 (entry .indexStatus) ∧ CanTake (queuing .stats ready) .p0 (entry .stats) ∧
      CanTake (queuing (.getParameter .graceS) ready) .p0 (entry (.getParameter .graceS)) ∧
      CanTake (queuing (.containerStatus 65535) ready) .p0 (entry (.containerStatus 65535)) := by
  unfold CanTake
  decide +kernel

theorem test_met_set_parameter :
    CanTake (queuing (.setParameter .sweepRate 64) ready) .p0 (entry (.setParameter .sweepRate 64)) ∧
      CanTake (queuing (.setParameter .sweepMode 0) ready) .p0 (entry (.setParameter .sweepMode 0)) ∧
      CanTake (queuing (.setParameter .occupancyPct 99) ready) .p0 (entry (.setParameter .occupancyPct 99)) := by
  unfold CanTake
  decide +kernel

theorem test_parameters_at_their_bounds :
    requestInRange (.setParameter .sweepMode 2) = true ∧ requestInRange (.setParameter .sweepMode 3) = false ∧
      requestInRange (.setParameter .statsMode 1) = true ∧ requestInRange (.setParameter .occupancyPct 99) = true ∧
      requestInRange (.setParameter .occupancyPct 49) = false ∧ requestInRange (.setParameter .lossWindowMs 0) = false ∧
      paramValue (paramSet Params.defaults .sweepMode 1) .sweepMode = 1 ∧
      paramValue (paramSet Params.defaults .statsMode 1) .statsMode = 1 := by decide

/-- A READY part whose clock is loaded. -/
def clocked (clock : BitVec 40) (ms : Nat) : State :=
  { ready with tmb := { ready.tmb with clock := clock, clockLoaded := true, secondMs := ms } }

theorem test_met_clock :
    (clocked 60#40 1000).powered = true ∧ (clocked 60#40 1000).tmb.clockLoaded = true ∧
      (clocked 60#40 1000).mem.header.clock.toNat + 60 ≤ (clocked 60#40 1000).tmb.clock.toNat ∧
      (clocked 59#40 999).tmb.clock.toNat < (clocked 59#40 999).mem.header.clock.toNat + 60 ∧
      1000 ≤ (clocked 60#40 1000).tmb.secondMs ∧ (clocked 59#40 999).tmb.secondMs < 1000 := by decide +kernel

theorem test_clock_stays_at_its_top :
    onNext (exec .indexClockAdvance (clocked 0xFFFFFFFFFF#40 1000)) (fun t => decide (t.tmb.clock = 0xFFFFFFFFFF#40)) =
      true := by decide +kernel

/-- A RESTART taken, its reset to come. -/
def restarting : State := { ready with mif := { ready.mif with restartTaken := true } }

/-- The sweeper's turn in progress. -/
def granted (s : State) : State := grantTurn .swp (.sweep .scrub 10 0#40) s

theorem test_met_restart :
    CanTake (queuing .restart ready) .p0 (entry .restart) ∧ (portUnit ready .p0).state ≠ .down ∧
      restarting.powered = true ∧ restarting.mif.restartTaken = true ∧ restarting.ixc.inProgress = none ∧
      ready.mif.restartTaken = false ∧ (granted restarting).ixc.inProgress ≠ none := by
  unfold CanTake
  decide +kernel

theorem test_restart_reset_starts_the_part_silenced :
    onNext (exec (.restartReset inputs { stage := 0, slot := 0 }) restarting) (fun t =>
      t.powered && !t.mif.restartTaken && t.mif.silenced &&
        transmitting t .p0 == .silent && t.linkOut == restarting.linkOut) = true := by
  decide +kernel

theorem test_restart_reset_waits_for_the_operation :
    onNext (exec (.restartReset inputs { stage := 0, slot := 0 }) (granted restarting))
      (fun t => decide (t = granted restarting)) = true := by
  decide +kernel

/-- A part in RECOVERING with a PENDING entry in slot 0 and a slot of no listed state in slot 1. -/
def recovering : State :=
  slotPut 1 { SlotImage.free with state := 0x06#8 } (slotPut 0 (imagePending fp 0) (started .recovering))

theorem test_met_recovery :
    recovering.powered = true ∧ recovering.mif.indexState = .recovering ∧ recovering.mif.restartTaken = false ∧
      recovering.mem.wf = true ∧ (slotNumber recovering.mif.descriptors 16777215).isSome = true ∧
      slotNumber recovering.mif.descriptors 16777216 = none ∧
      (∃ x ∈ recovering.mem.slots, (slotNumber recovering.mif.descriptors x.1).isSome = true ∧ imageState x.2 = none) ∧
      (portUnit ready .p0).state ≠ .down := by decide +kernel

theorem test_met_settings_checks :
    (memSettings defaultSettings recovering.mem).settingsCheck =
        settingsCheckOf (memSettings defaultSettings recovering.mem).settings ∧
      { recovering.mem with settingsCheck := ~~~ settingsCheckOf recovering.mem.settings }.settingsCheck ≠
        settingsCheckOf recovering.mem.settings := by
  refine ⟨rfl, fun h => ?_⟩
  have := congrArg (fun x : BitVec 32 => x.getLsbD 0) h
  simp at this

theorem test_recovery_walks_slots :
    let m := recoverSlots recovering.mif.descriptors none recovering.mem
    tableGet SlotImage.free m.slots 0 = SlotImage.free ∧ (tableGet SlotImage.free m.slots 1).state = entryCode .suspect ∧
      occupancyOf recovering.mif.descriptors m = 1 := by decide +kernel

/-- FORMAT queued at port 0 in an index state. -/
def formatting (st : IndexState) : State := queuing .format { ready with mif := { ready.mif with indexState := st } }

theorem portsOk_of {s : State} (h0 : UnitOk (portUnit s .p0)) (h1 : UnitOk (portUnit s .p1)) (h2 : UnitOk (portUnit s .p2))
    (h3 : UnitOk (portUnit s .p3)) : PortsOk s := by
  intro p
  cases p
  · exact h0
  · exact h1
  · exact h2
  · exact h3

theorem formatting_portsOk (st : IndexState) : PortsOk (formatting st) := by
  refine portsOk_of ?_ ?_ ?_ ?_
  all_goals
    unfold UnitOk AttnOk DownOk QueueOk LinkOk
    cases st <;> decide +kernel

/-- The same, with an operation in progress. -/
def formattingBusy : State :=
  let s := formatting .ready
  { s with ixc := { s.ixc with inProgress := some (.item 0) } }

/-- The same, waiting for an operation. -/
def formattingWaits (t : Option Turn) (s : State) : State :=
  { s with ixc := { s.ixc with inProgress := t }, mif := { s.mif with formatWaits := some (.p0, 7#16) } }

theorem test_met_format :
    CanTake (formatting .unformatted) .p0 (entry .format) ∧ CanTake (formatting .ready) .p0 (entry .format) ∧
      (formatting .ready).ixc.inProgress = none ∧ NothingInUse (formatting .ready) ∧
      ¬ NothingInUse (claiming claim (formatting .ready)) ∧
      CanTake (claiming claim (formatting .ready)) .p0 (entry .format) ∧
      CanTake formattingBusy .p0 (entry .format) ∧ formattingBusy.ixc.inProgress ≠ none := by
  unfold CanTake NothingInUse
  decide +kernel

theorem test_met_format_waits :
    let s := formattingWaits none (formatting .ready)
    s.powered = true ∧ s.mif.formatWaits = some (.p0, 7#16) ∧ IsQueued s .p0 (entry .format) ∧
      s.mif.restartTaken = false ∧ s.mif.indexState = .ready ∧ s.ixc.inProgress = none ∧ NothingInUse s ∧
      ¬ NothingInUse (formattingWaits none (claiming claim (formatting .ready))) ∧
      (formattingWaits (some (.item 0)) (formatting .ready)).ixc.inProgress ≠ none := by
  unfold IsQueued NothingInUse
  decide +kernel

/-- A FORMAT being walked. -/
def walking : State :=
  let s := formatting .formatting
  { s with
    mif := { s.mif with formatJob := some { port := .p0, tag := 7#16, mark := 0#16, startCount := 1#16 } } }

theorem test_met_format_walk :
    walking.powered = true ∧
      walking.mif.formatJob = some { port := .p0, tag := 7#16, mark := 0#16, startCount := 1#16 } ∧
      walking.mif.indexState = .formatting ∧ walking.mif.restartTaken = false ∧ walking.mif.changes = [] ∧ walking.mem.wf = true ∧
      queued walking .p0 7#16 = some (entry .format) ∧ 0#16 = (portUnit walking .p0).session ∧
      (slotNumber walking.mif.descriptors 0).isSome = true ∧ slotNumber walking.mif.descriptors 16777216 = none ∧
      (portUnit walking .p0).state ≠ .down ∧ (portUnit walking .p2).state = .down ∧ capacity walking ≠ 0 ∧
      walking.ixc.occupancyHigh = false ∧ walking.ctu.containersLow = false := by
  decide +kernel

theorem test_met_cut_walks :
    recovering.powered = true ∧ recovering.mif.indexState = .recovering ∧ recovering.mem.wf = true ∧
      walking.powered = true ∧ walking.mif.indexState = .formatting ∧ walking.mem.wf = true ∧
      slotNumber recovering.mif.descriptors 1 = some 1 ∧ slotNumber walking.mif.descriptors 1 = some 1 ∧
      { walking with mif := { walking.mif with restartTaken := true } }.mif.restartTaken = true ∧
      onNext (exec (.powerLoss { stage := 0, slot := 1 })
        { walking with mif := { walking.mif with restartTaken := true } }) (fun t => !t.powered) = true := by
  decide +kernel

theorem test_cut_walks_stop_at_their_slot :
    let cut (stage slot : Nat) : IndexMemory :=
      recoverSlots recovering.mif.descriptors (walkLimit { stage := stage, slot := slot } 5) recovering.mem
    tableGet SlotImage.free (cut 4 1).slots 0 = SlotImage.free ∧
      tableGet SlotImage.free (cut 4 1).slots 1 = tableGet SlotImage.free recovering.mem.slots 1 ∧
      (tableGet SlotImage.free (cut 4 2).slots 1).state = 0x05#8 ∧
      (tableGet SlotImage.free (cut 5 1).slots 1).state = 0x05#8 ∧
      onNext (exec (.powerLoss { stage := 2, slot := 1 }) recovering)
        (fun t => decide (t.mem.slots = recovering.mem.slots) && decide (t.mem.header.startCount = 1#16) &&
          decide (t.mem.header.clock = 60#40)) = true := by decide +kernel

/-- Containers 5 to 7 in a table, with a free list and an open count at port 0. -/
def contained (c5 : ContainerRec) (free : List Nat) (opens : Nat) (s : State) : State :=
  containerPut 5 c5 { s with ctu := { freeList := free, openCount := ⟨opens, 0, 0, 0⟩, containersLow := true, outcomes := [] } }

theorem test_met_containers :
    CanTake (queuing .openContainer (contained (container .closed 0 0) [6] 4 ready)) .p0 (entry .openContainer) ∧
      fourGet (contained (container .closed 0 0) [6] 4 ready).ctu.openCount .p0 = 4 ∧
      CanTake (queuing .openContainer (contained (container .closed 0 0) [] 3 ready)) .p0 (entry .openContainer) ∧
      fourGet (contained (container .closed 0 0) [] 3 ready).ctu.openCount .p0 ≠ 4 ∧
      CanTake (queuing .openContainer (contained (container .closed 0 0) [6] 3 ready)) .p0 (entry .openContainer) ∧
      (contained (container .closed 0 0) [6] 3 ready).ctu.freeList = [6] ∧
      CanTake (queuing (.closeContainer 5) (contained (container .opened 0 0) [6] 1 ready)) .p0
        (entry (.closeContainer 5)) ∧
      (containerGet (contained (container .opened 0 0) [6] 1 ready) 5).state = .opened ∧
      (containerGet (contained (container .opened 0 0) [6] 1 ready) 5).owner = .p0 ∧
      (containerGet (contained { container .opened 0 0 with owner := .p1 } [6] 1 ready) 5).owner ≠ .p0 ∧
      (containerGet (contained (container .closed 0 0) [6] 1 ready) 5).state ≠ .opened ∧
      CanTake (queuing (.reclaim 5) (contained (container .closed 0 1) [6] 1 ready)) .p0 (entry (.reclaim 5)) ∧
      (containerGet (contained (container .closed 0 1) [6] 1 ready) 5).live ≠ 0 ∧
      (containerGet (contained (container .closed 0 0) [6] 1 ready) 5).live = 0 := by
  unfold CanTake
  decide +kernel

theorem test_find_empty_from_its_start :
    onNext (exec (.findEmpty .p0 (.request (.take 7#16))) (queuing (.findEmpty 5) (contained (container .closed 9 0) [] 0 ready)))
        (fun t => decide ((portUnit t .p0).responses = [{ kind := 5#8, tag := 7#16, answer := .done (.found (some 5)) }])) =
      true ∧
    onNext (exec (.findEmpty .p0 (.request (.take 7#16))) (queuing (.findEmpty 6) (contained (container .closed 9 0) [] 0 ready)))
        (fun t => decide ((portUnit t .p0).responses = [{ kind := 5#8, tag := 7#16, answer := .done (.found none) }])) =
      true ∧
    CanTake (queuing (.findEmpty 5) (contained (container .closed 9 0) [] 0 ready)) .p0 (entry (.findEmpty 5)) ∧
    (queuing (.findEmpty 5) (contained (container .closed 9 0) [] 0 ready)).mem.wf = true := by
  unfold CanTake
  decide +kernel

/-- Port 0's OPEN_CONTAINER to be taken, with container 6 free. -/
def opening : State := queuing .openContainer (contained (container .closed 0 0) [6] 0 ready)

/-- The outcome of `opening`'s request, fixed and not handed over. -/
def fixedOutcome : CtuOutcome :=
  { port := .p0, kind := .openContainer, tag := 7#16, mark := 0#16, answer := .done (.opened 6) }

theorem test_met_outcome_handed_apart :
    CanTake opening .p0 (entry .openContainer) ∧ opening.ctu.outcomes = [] ∧
      onNext (exec (.openContainer .p0 (.fix 7#16)) opening) (fun t =>
        decide (t.ctu.outcomes = [fixedOutcome]) && decide ((portUnit t .p0).responses = []) &&
          decide (fourGet t.ctu.openCount .p0 = 1) &&
          onNext (exec (.openContainer .p0 (.hand 7#16)) t) (fun v =>
            decide (v.ctu.outcomes = []) &&
              decide ((portUnit v .p0).responses =
                [{ kind := 0x25#8, tag := 7#16, answer := .done (.opened 6) }]))) = true ∧
      containerCommand .openContainer .p0 (.hand 7#16) = some (.openContainer .p0 (.hand 7#16)) := by
  unfold CanTake
  decide +kernel

theorem test_outcome_of_an_evicted_port_is_not_sent :
    onNext (exec (.openContainer .p0 (.fix 7#16)) opening) (fun t =>
      onNext (exec (.openContainer .p0 (.hand 7#16)) (takeEviction .p0 t)) (fun v =>
        decide ((portUnit v .p0).responses = []) && decide (v.ctu.outcomes = []) &&
          decide (fourGet v.ctu.openCount .p0 = 1))) = true := by
  decide +kernel

theorem test_met_taken_once_after_restart :
    let s : State := { opening with mif := { opening.mif with restartTaken := true } }
    s.powered = true ∧ takeable s .p0 .openContainer 7#16 = some (entry .openContainer) ∧
      0#16 = (portUnit s .p0).session ∧
      onNext (exec (.openContainer .p0 (.request (.take 7#16))) s) (fun t =>
        decide ((portUnit t .p0).responses = []) && decide (fourGet t.ctu.openCount .p0 = 1) &&
          onNext (exec (.openContainer .p0 (.request (.take 7#16))) t)
            (fun v => decide (fourGet v.ctu.openCount .p0 = 1))) = true := by
  decide +kernel

theorem test_met_notices :
    (portUnit ready .p0).state ≠ .down ∧ (portUnit ready .p2).state = .down ∧
      (false ≠ { ready with ixc := { ready.ixc with occupancyHigh := true } }.ixc.occupancyHigh) ∧
      containersLowCondition ready ≠ ready.ctu.containersLow ∧
      containersLowCondition { ready with ctu := { ready.ctu with containersLow := true } } = true ∧
      occupancyCondition ready = ready.ixc.occupancyHigh := by decide +kernel

theorem test_occupancy_high_at_its_level :
    let s := { ready with params := { ready.params with occupancyPct := 50 } }
    (portUnit (setOccupancy 8388608 s) .p0).events = 0x20#13 ∧ (portUnit (setOccupancy 8388607 s) .p0).events = 0#13 := by
  decide +kernel

theorem test_met_event_requests :
    CanTake (queuing .events ready) .p0 (entry .events) ∧
      CanTake (queuing (.setEventMask 0#13 (some .both) none) ready) .p0 (entry (.setEventMask 0#13 (some .both) none)) := by
  unfold CanTake
  decide +kernel

theorem test_counter_saturates_at_its_top :
    let c (v : Nat) : State := { ready with stu := { ready.stu with live := [(7, { value := v, saturated := false })] } }
    tableGet Counter.zero (countOne 7 1 (c 281474976710653)).stu.live 7 = { value := 281474976710654, saturated := false } ∧
      tableGet Counter.zero (countOne 7 1 (c 281474976710654)).stu.live 7 = { value := 281474976710655, saturated := true } ∧
      (countOne 7 1 (c 281474976710654)).stu.notice = true := by decide +kernel

theorem test_counters_have_their_places :
    (countNs 63 .purgeBytes 1 ready).stu.live = [(639, { value := 1, saturated := false })] ∧
      (countNs 64 .lookups 1 ready).stu.live = [] ∧
      (countPort .p3 .expiredClaims 1 ready).stu.live = [(655, { value := 1, saturated := false })] := by decide +kernel

/-- Statistics with an interval timer. -/
def timed (mode : StatsMode) (t : Option Nat) : State :=
  { ready with params := { ready.params with statsMode := mode, statsIntervalS := 1 }, stu := { ready.stu with timer := t } }

theorem test_met_snapshots :
    CanTake (queuing .snapshot (timed .manual none)) .p0 (entry .snapshot) ∧
      CanTake (queuing .snapshot (timed .interval (some 0))) .p0 (entry .snapshot) ∧
      (timed .interval (some 1000)).powered = true ∧ (timed .interval (some 1000)).mif.indexState = .ready ∧
      (timed .interval (some 1000)).params.statsIntervalS * 1000 ≤ 1000 ∧
      999 < (timed .interval (some 999)).params.statsIntervalS * 1000 ∧ (timed .manual none).stu.timer = none := by
  unfold CanTake
  decide +kernel

theorem test_met_namespaces_and_ports :
    CanTake (queuing (.setNamespace 63 (some .active) none) ready) .p0 (entry (.setNamespace 63 (some .active) none)) ∧
      CanTake (queuing (.setNamespace 0 none none) ready) .p0 (entry (.setNamespace 0 none none)) ∧
      CanTake (queuing (.setPort none (some 1#64) (some true)) ready) .p0 (entry (.setPort none (some 1#64) (some true))) ∧
      CanTake (queuing (.setPort (some .p3) none (some true)) ready) .p0 (entry (.setPort (some .p3) none (some true))) ∧
      CanTake (queuing (.setPort none none none) ready) .p0 (entry (.setPort none none none)) := by
  unfold CanTake
  decide +kernel

/-- Port 1 in FENCED, persistence met or not, with its two counts. -/
def fenced (met : Bool) (persistence quiet : Nat) : State :=
  updPort .p1 (fun u =>
    { u with state := .fenced, persistenceMet := met, autoAdmit := true, persistence := persistence, quiet := quiet })
    ready

theorem test_met_admission :
    CanTake (queuing (.admitPort .p1) (fenced false 0 0)) .p0 (entry (.admitPort .p1)) ∧
      (portUnit (fenced false 0 0) .p1).state = .fenced ∧ teardownOutstanding (portUnit (fenced false 0 0) .p1) = false ∧
      CanTake (queuing (.admitPort .p1) ready) .p0 (entry (.admitPort .p1)) ∧ (portUnit ready .p1).state ≠ .fenced ∧
      CanTake (queuing (.evict .p1) ready) .p0 (entry (.evict .p1)) ∧ (portUnit ready .p1).state = .online ∧
      CanTake (queuing (.evict .p0) ready) .p0 (entry (.evict .p0)) ∧
      CanTake (queuing (.evict .p2) ready) .p0 (entry (.evict .p2)) ∧ (portUnit ready .p2).state = .down ∧
      CanTake (queuing (.evict .p1) (fenced true 100 0)) .p0 (entry (.evict .p1)) := by
  unfold CanTake
  decide +kernel

/-- PEER_ADMITTED stands in port 0's event set. -/
def hasRaised (s : State) : Bool := decide ((portUnit s .p0).events = 0x02#13)

theorem test_met_link :
    (portUnit (fenced true 100 0) .p1).persistenceMet = true ∧ (portUnit (fenced true 100 0) .p1).suppression = false ∧
      (portUnit (fenced true 100 0) .p1).autoAdmit = true ∧ (portUnit (fenced false 0 0) .p1).persistenceMet = false ∧
      (portUnit ready .p2).state = .down ∧ (portUnit ready .p1).state ≠ .down ∧
      (portUnit (fenced false 99 0) .p1).judged = false ∧ (portUnit (fenced false 99 0) .p1).persistence + 1 = 100 ∧
      (portUnit (fenced false 98 0) .p1).persistence + 1 ≠ 100 ∧ (fenced true 100 3).powered = true ∧
      (portUnit (fenced true 100 3) .p1).state = .fenced ∧ (portUnit (fenced true 100 3) .p1).symbolSeen = false ∧
      lossWindow (fenced true 100 3) .p1 ≤ (portUnit (fenced true 100 3) .p1).quiet + 1 ∧
      ¬ lossWindow (fenced true 100 2) .p1 ≤ (portUnit (fenced true 100 2) .p1).quiet + 1 ∧
      (portUnit ready .p1).state = .online := by decide +kernel

theorem test_tick_admits_at_100_and_loses_at_the_window :
    onNext (exec (.millisecondTick ⟨true, true, false, false⟩) (fenced false 99 3))
      (fun t => decide ((portUnit t .p1).state = .online) && decide ((portUnit t .p1).persistence = 100) &&
        decide ((portUnit t .p1).persistenceMet = true) && hasRaised t) = true ∧
    onNext (exec (.millisecondTick ⟨true, true, false, false⟩) (fenced false 98 3))
      (fun t => decide ((portUnit t .p1).state = .fenced) && decide ((portUnit t .p1).persistence = 99)) = true ∧
    onNext (exec (.millisecondTick ⟨true, false, false, false⟩) (fenced false 99 3))
      (fun t => decide ((portUnit t .p1).state = .down) && decide ((portUnit t .p1).session = 1#16)) = true ∧
    onNext (exec (.millisecondTick ⟨true, false, false, false⟩) (fenced true 100 2))
      (fun t => decide ((portUnit t .p1).state = .fenced) && decide ((portUnit t .p1).quiet = 3) &&
        decide ((portUnit t .p1).persistenceMet = false)) = true := by
  decide +kernel

theorem test_tick_judges_a_port_once :
    onNext (exec (.persistenceMet .p1) (fenced false 99 0)) (fun s =>
        decide ((portUnit s .p1).state = .online) &&
          onNext (exec (.millisecondTick ⟨true, false, false, false⟩) s) (fun t =>
            decide ((portUnit t .p1).quiet = 0) && decide ((portUnit t .p1).judged = false))) = true ∧
      onNext (exec (.loss .p1) (fenced false 0 3)) (fun s =>
        decide ((portUnit s .p1).state = .down) && decide ((portUnit s .p1).judged = true)) = true := by
  decide +kernel

/-! ## The conditions of the statements are met: teardown, slots and turns -/

/-- Updates of the claim unit held at the arbiter. -/
def updatesHeld (l : List Update) : State := { ready with clu := { ready.clu with updates := l } }

/-- Port 0's teardown outstanding at each block. -/
def tearing (ctu bte clu : Bool) (s : State) : State :=
  updPort .p0 (fun u => { u with teardownCtu := ctu, teardownBte := bte, teardownClu := clu }) s

/-- A state with a turn in progress. -/
def during (t : Turn) (s : State) : State := { s with ixc := { s.ixc with inProgress := some t } }

/-- A change of parameter handed over, that no port unit has taken, for the request under tag 7 of a port. -/
def change (p : Port) (q : Param) (v : Nat) : ParamChange :=
  { port := p, tag := 7#16, mark := 0#16, param := q, value := v, units := ⟨false, false, false, false⟩ }

/-- The first response of port 0. -/
def reported (s : State) : Option Answer := (portUnit s .p0).responses.head?.map (fun r => r.answer)

theorem test_parameter_is_written_before_its_owner_takes_it :
    let s := during (.entryUpdate 0) (queuing (.setParameter .claimWindowMs 10) ready)
    onNext (exec (.setParameter .p0 (.request (.take 7#16))) s) (fun t =>
      decide (t.mem.settings.params.claimWindowMs = 10) && decide (t.params.claimWindowMs = 500) &&
        decide (reported t = none) && decide (t.mif.changes = [change .p0 .claimWindowMs 10]) &&
        onNext (exec (.setParameter .p0 (.own .claimWindowMs)) t) (fun u => decide (u.params.claimWindowMs = 500)) &&
        onNext (exec (.setParameter .p0 (.own .claimWindowMs)) { t with ixc := ready.ixc }) (fun u =>
          decide (u.params.claimWindowMs = 10) && decide (reported u = some (.done (.parameter 10))) &&
            decide (u.mif.changes = []))) = true ∧
    onNext (exec (.setParameter .p0 (.write 7#16)) (queuing (.setParameter .claimWindowMs 10) ready)) (fun t =>
      decide (t.params.claimWindowMs = 500) && decide (t.mif.changes.length = 1)) = true ∧
    onNext (exec (.setParameter .p0 (.request (.take 7#16))) (queuing (.setParameter .claimWindowMs 10) ready)) (fun t =>
      decide (t.params.claimWindowMs = 10) && decide (reported t = some (.done (.parameter 10)))) = true := by
  decide +kernel

theorem test_format_walk_waits_for_parameter_changes :
    let s := setChanges [change .p1 .graceS 5] walking
    onNext (exec .formatWalk s) (fun t => decide (t.mif.indexState = .formatting)) = true ∧
      onNext (exec (.setParameter .p1 (.own .graceS)) s) (fun t =>
        decide (t.params.graceS = 5) && decide (t.mif.changes = walking.mif.changes)) = true := by decide +kernel

theorem test_changes_of_two_ports_are_taken_in_order :
    let s := setChanges [change .p0 .sweepRate 20, change .p1 .sweepRate 30] ready
    onNext (exec (.setParameter .p1 (.own .sweepRate)) s) (fun t => decide (t.params.sweepRate = 8)) = true ∧
    onNext (exec (.setParameter .p0 (.own .sweepRate)) s) (fun t => decide (t.params.sweepRate = 20) &&
      onNext (exec (.setParameter .p1 (.own .sweepRate)) t) (fun u =>
        decide (u.params.sweepRate = 30) && decide (u.mif.changes = []))) = true := by
  decide +kernel

theorem test_port_units_take_the_loss_window_one_by_one :
    let s := setChanges [change .p0 .lossWindowMs 15] (queuing (.setParameter .lossWindowMs 15) ready)
    onNext (exec (.setParameter .p0 (.unit .p1)) s) (fun t =>
      decide (lossWindow t .p0 = 4) && decide (lossWindow t .p1 = 15) && decide (reported t = none) &&
        onNext (exec (.setParameter .p0 (.unit .p1)) t) (fun u => decide (u = t)) &&
        onNext (exec (.setParameter .p0 (.unit .p3)) t) (fun u =>
          onNext (exec (.setParameter .p0 (.unit .p0)) u) (fun v =>
            onNext (exec (.setParameter .p0 (.unit .p2)) v) (fun w =>
              decide (w.params.lossWindowMs = 15) && decide (w.mif.changes = []) &&
                decide (reported w = some (.done (.parameter 15))))))) = true ∧
    onNext (exec (.setParameter .p0 (.request (.take 7#16))) (queuing (.setParameter .lossWindowMs 15) ready)) (fun t =>
      decide (t.params.lossWindowMs = 15) && decide (t.mif.changes = [])) = true ∧
    onNext (exec (.getParameter .p0 (.take 7#16))
      (setChanges [{ change .p1 .lossWindowMs 15 with units := ⟨true, false, false, false⟩ }]
        (queuing (.getParameter .lossWindowMs) ready))) (fun t => decide (reported t = some (.done (.parameter 15)))) =
      true := by
  decide +kernel

theorem test_met_parameter_changes :
    let s := during (.entryUpdate 0) (queuing (.setParameter .claimWindowMs 10) ready)
    let a := { change .p0 .lossWindowMs 1 with units := ⟨true, true, true, false⟩ }
    let w := setChanges [change .p1 .graceS 5, a, change .p1 .lossWindowMs 2] ready
    CanTake s .p0 (entry (.setParameter .claimWindowMs 10)) ∧
      CanTake (queuing (.setParameter .lossWindowMs 1) w) .p0 (entry (.setParameter .lossWindowMs 1)) ∧
      w.powered = true ∧ w.mif.changes = [change .p1 .graceS 5] ++ a :: [change .p1 .lossWindowMs 2] ∧
      (∀ u, u ≠ Port.p3 → fourGet a.units u = true) ∧ isUnitChange .p3 a = true ∧
      w.mif.changes = [change .p1 .graceS 5, a] ++ change .p1 .lossWindowMs 2 :: [] ∧
      isUnitChange .p0 (change .p1 .lossWindowMs 2) = true ∧ isUnitChange .p0 a = false ∧
      lossWindow w .p0 = 1 ∧ lossWindow w .p3 = 4 := by
  unfold CanTake
  refine ⟨by decide +kernel, by decide +kernel, by decide +kernel, by decide +kernel, ?_, by decide +kernel,
    by decide +kernel, by decide +kernel, by decide +kernel, by decide +kernel, by decide +kernel⟩
  intro u hu
  cases u <;> first | rfl | exact absurd rfl hu

theorem test_teardown_outside_ready_leaves_containers :
    onNext (exec (.ctuTeardown .p0) (tearing true false false (containerPut 5 (container .opened 0 0) (started .unformatted))))
      (fun t => decide ((containerGet t 5).state = .opened) && !(portUnit t .p0).teardownCtu) = true ∧
    onNext (exec (.ctuTeardown .p0) (tearing true false false (containerPut 5 (container .opened 0 0) ready)))
      (fun t => decide ((containerGet t 5).state = .closed)) = true ∧ (started .unformatted).mif.indexState ≠ .ready := by
  decide +kernel

theorem test_met_teardown :
    (tearing true true true ready).powered = true ∧ (tearing true true true ready).mem.wf = true ∧
      tableWf Context.zero (tearing true true true ready).bte.contexts = true ∧
      tableWf ClaimRec.zero (tearing false false true (claiming claim ready)).clu.claims = true ∧
      (portUnit (tearing true true true ready) .p0).teardownCtu = true ∧
      (portUnit (tearing true true true ready) .p0).teardownBte = true ∧
      (portUnit (tearing false false true (claiming claim ready)) .p0).teardownClu = true ∧
      (portUnit (tearing false false true (claiming claim ready)) .p0).teardownBte = false ∧
      (tearing true true true ready).ixc.inProgress = none ∧ (portUnit ready .p0).teardownCtu = false ∧
      (during (.port .p0 (entry .identify)) (tearing true true true ready)).ixc.inProgress =
        some (.port .p0 (entry .identify)) ∧
      (during (.item 0) (tearing true true true ready)).ixc.inProgress = some (.item 0) := by decide +kernel

theorem test_claim_teardown_closes_claim :
    onNext (exec (.cluTeardown .p0) (tearing false false true (claiming claim ready)))
        (fun t => decide ((claimGet t 0).phase = .closing) && decide (t.clu.updates = [.freeing 0]) &&
          decide (t.bte.inbox = [.teardownCompletion .p0])) = true ∧
    onNext (exec (.cluTeardown .p0) (tearing false false true
        (claiming { claim with waiters := [{ port := .p1, ns := 0, origin := .single 4#16 0#16 }] } ready)))
        (fun t => decide ((claimGet t 0).generation = 4#32) && decide ((claimGet t 0).handover = 1) &&
          decide (t.clu.updates = [])) = true := by decide +kernel

/-- Slots that fail verification: a code that does not hold, a FREE slot with a field, a state of no code. -/
def spoilt (im : SlotImage) : State := slotPut 0 im ready

theorem test_met_verification :
    imageState (slotGet (spoilt { SlotImage.free with state := 0x05#8 }) 0) = some .suspect ∧
      imageHolds (slotGet (holding .stored 5#16 ready) 0) = true ∧
      positionQuery (claiming claim ready) 0 = some (0, claim) ∧
      positionQuery (claimPut 0 claim (spoilt { SlotImage.free with fp := fp })) 0 = some (0, claim) ∧
      imageHolds { SlotImage.free with fp := fp } = false ∧ positionQuery (spoilt { SlotImage.free with fp := fp }) 0 = none ∧
      imageState { SlotImage.free with fp := fp } = some .free ∧
      imageHolds { SlotImage.free with loc := loc } = false ∧ loc.length ≠ 0#32 ∧
      imageHolds { SlotImage.free with state := 0x01#8 } = false ∧
      imageState { SlotImage.free with state := 0x01#8 } = some .pending ∧
      imageHolds { SlotImage.free with state := 0x06#8 } = false ∧ imageState { SlotImage.free with state := 0x06#8 } = none ∧
      imageHolds { SlotImage.free with state := 0x02#8 } = false := by decide +kernel

theorem test_met_search :
    (∀ n ∈ searchSlots (bucketCount (holding .stored 5#16 ready)) fp,
      imageState (slotGet (holding .stored 5#16 ready) n) = some .suspect ∨
        imageHolds (slotGet (holding .stored 5#16 ready) n) = true) ∧
      (searchIndex fp (holding .stored 5#16 ready)).2 = some 0 ∧ (searchIndex fp ready).2 = none ∧
      searchSlots (bucketCount ready) fp = [0, 1, 2, 3, 4, 5, 6, 7, 8, 9, 10, 11, 12, 13, 14, 15] ∧
      2 ≤ bucketCount ready := by decide +kernel

theorem test_met_search_over_failing_slots :
    let s := spoilt { imageCounted .stored fp 1#16 loc 0#8 0#40 with check := 0#16 }
    imageState (slotGet (verifySlot 0 s) 0) ≠ some .free ∧ (slotGet (verifySlot 0 s) 0).fp = fp ∧
      (searchFrom fp [0] s).2 = some 0 ∧ slotState (searchFrom fp [0] s).1 0 = some .suspect ∧
      imageState (slotGet (verifySlot 1 s) 1) = some .free ∧ (searchFrom fp [1, 0] s).2 = some 0 := by decide +kernel

theorem test_home_and_alternate_bucket :
    homeBucket 2097152 (BitVec.ofNat 256 (4294967295 * 2 ^ 224 + 4294967295 * 2 ^ 192)) = 2097151 ∧
      alternateBucket 2097152 (BitVec.ofNat 256 (4294967295 * 2 ^ 224 + 4294967295 * 2 ^ 192)) = 0 := by decide +kernel

theorem test_met_arbiter :
    nextRequester (queuing (.lookup fp true) ready) = some (.pu .p0) ∧ nextRequester ready = none ∧
      ready.mif.indexState = .ready ∧ ready.ixc.inProgress = none ∧ ready.mif.formatWaits = none ∧
      ready.mif.restartTaken = false ∧ turnCommand .lookup .p1 .whole = some (.lookupOperation .p1 .whole) ∧
      nextRequester (queuing (.lookup fp true) ready) ≠ some (.pu .p1) ∧
      turnCommand .lookup .p1 .finish = some (.lookupOperation .p1 .finish) := by decide +kernel

theorem test_met_grants :
    (queuing (.lookup fp true) ready).powered = true ∧
      firstWaiting (queuing (.lookup fp true) ready) .p0 = some (entry (.lookup fp true)) ∧
      firstWaiting (queuing .identify ready) .p0 = none ∧ (entry (.lookup fp true)).kind ≠ .probe ∧
      turnCommand .probe .p0 .grant = some (.probeOperation .p0 .grant) ∧
      nextRequester (updatesHeld [.entry 0]) = some .clu ∧ nextRequester (updatesHeld [.freeing 0]) = some .clu ∧
      (updatesHeld [.entry 0]).clu.updates.head? ≠ some (.freeing 0) ∧ nextRequester ready ≠ some .swp ∧
      (granted ready).ixc.inProgress ≠ some (.item 0) := by decide +kernel

theorem test_arbiter_order :
    requestersAfter .swp = [.pu .p0, .pu .p1, .pu .p2, .pu .p3, .bte, .clu, .swp] ∧
      requestersAfter (.pu .p3) = [.bte, .clu, .swp, .pu .p0, .pu .p1, .pu .p2, .pu .p3] := by decide

/-- A request whose turn is next, and the slot its search finds. -/
abbrev turn (r : Request) (s : State) : State := turnBegun .p0 (entry r) (queuing r s)

theorem test_met_lookup_turns :
    HasTurn (queuing (.lookup fp true) (holding .stored 65534#16 ready)) .p0 (entry (.lookup fp true)) ∧
      (searchIndex fp (turn (.lookup fp true) (holding .stored 65534#16 ready))).2 = some 0 ∧
      imageState (slotGet (searchIndex fp (turn (.lookup fp true) (holding .stored 65534#16 ready))).1 0) = some .stored ∧
      imageState (slotGet (searchIndex fp (turn (.lookup fp true) (holding .zero 0#16 ready))).1 0) = some .zero ∧
      imageState (slotGet (searchIndex fp (turn (.lookup fp true) (holding .pinned 65535#16 ready))).1 0) = some .pinned ∧
      imageState (slotGet (searchIndex fp (turn (.lookup fp true) (holding .suspect 1#16 ready))).1 0) = some .suspect ∧
      (searchIndex fp (turn (.lookup fp true) (holding .suspect 1#16 ready))).2 = some 0 ∧ fp ≠ 0#256 := by
  unfold HasTurn IsQueued
  decide +kernel

theorem test_lookup_pins_at_65535 :
    onNext (exec (.lookupOperation .p0 .whole) (queuing (.lookup fp true) (holding .stored 65534#16 ready)))
        (fun t => decide (slotState t 0 = some .pinned) && decide ((slotGet t 0).refcount = 65535#16)) = true ∧
      onNext (exec (.lookupOperation .p0 .whole) (queuing (.lookup fp true) (holding .stored 65533#16 ready)))
        (fun t => decide (slotState t 0 = some .stored) && decide ((slotGet t 0).refcount = 65534#16)) = true := by
  decide +kernel

/-- A claim whose list holds as many waiters as the pool has. -/
def crowded : State :=
  claiming { claim with waiters := List.replicate 2048 { port := .p1, ns := 0, origin := .single 4#16 0#16 } } ready

theorem test_met_pending :
    HasTurn (queuing (.lookup fp true) (claiming claim ready)) .p0 (entry (.lookup fp true)) ∧
      HasTurn (queuing (.lookup fp false) (claiming claim ready)) .p0 (entry (.lookup fp false)) ∧
      (searchIndex fp (turn (.lookup fp true) (claiming claim ready))).2 = some 0 ∧
      imageState (slotGet (searchIndex fp (turn (.lookup fp true) (claiming claim ready))).1 0) = some .pending ∧
      (claimGet (searchIndex fp (turn (.lookup fp true) (claiming claim ready))).1 0).phase ≠ .free ∧
      ((claiming claim ready).clu.claims.map (fun x => x.2.waiters.length)).sum < 2048 ∧
      2048 ≤ (crowded.clu.claims.map (fun x => x.2.waiters.length)).sum ∧
      HasTurn (queuing (.lookup fp true) crowded) .p0 (entry (.lookup fp true)) := by
  unfold HasTurn IsQueued
  decide +kernel

/-- A READY part with every slot of buckets 0 and 1 taken. -/
def packed : State := (List.range 16).foldl (fun s n => slotPut n (imageCounted .stored 2#256 1#16 loc 0#8 0#40) s) ready

/-- A READY part with every claim record in use. -/
def spoken : State := { ready with clu := { ready.clu with claims := (List.range 1024).map (fun n => (n, claim)) } }

theorem test_met_inserts :
    HasTurn (queuing (.lookup fp true) ready) .p0 (entry (.lookup fp true)) ∧
      (searchIndex fp (turn (.lookup fp true) ready)).2 = none ∧
      imageState (slotGet (searchIndex fp (turn (.lookup fp true) ready)).1 0) = some .free ∧
      (claimGet (searchIndex fp (turn (.lookup fp true) ready)).1 0).phase = .free ∧
      HasTurn (queuing (.lookup fp true) packed) .p0 (entry (.lookup fp true)) ∧
      (searchIndex fp (turn (.lookup fp true) packed)).2 = none ∧
      (∀ n ∈ searchSlots (bucketCount packed) fp,
        imageState (slotGet (searchIndex fp (turn (.lookup fp true) packed)).1 n) ≠ some .free) := by
  unfold HasTurn IsQueued
  decide +kernel

/-- A number of the list finds its value in the table that holds the value under every number of the list. -/
theorem tableGet_constant {α : Type} (d v : α) (l : List Nat) (k : Nat) (h : k ∈ l) :
    tableGet d (l.map (fun n => (n, v))) k = v := by
  induction l with
  | nil => cases h
  | cons a l ih =>
    unfold tableGet
    rw [List.map_cons]
    dsimp only
    split
    · rfl
    · next hne => exact ih ((List.mem_cons.mp h).resolve_left (fun e => hne e.symm))

/-- Beginning a turn leaves the claim records. -/
theorem turn_claims (r : Request) (s : State) : (turn r s).clu.claims = s.clu.claims := rfl

theorem spoken_claims : spoken.clu.claims = (List.range 1024).map (fun n => (n, claim)) := by
  simp only [spoken]

theorem test_met_inserts_claims_full :
    HasTurn (queuing (.lookup fp true) spoken) .p0 (entry (.lookup fp true)) ∧
      (searchIndex fp (turn (.lookup fp true) spoken)).2 = none ∧
      imageState (slotGet (searchIndex fp (turn (.lookup fp true) spoken)).1 0) = some .free ∧
      (∀ c, c < 1024 → (claimGet (searchIndex fp (turn (.lookup fp true) spoken)).1 c).phase ≠ .free) := by
  refine ⟨?_, ?_, ?_, ?_⟩
  · unfold HasTurn IsQueued
    decide +kernel
  · decide +kernel
  · decide +kernel
  · intro c hc
    have h : (searchIndex fp (turn (.lookup fp true) spoken)).1.clu.claims =
        (List.range 1024).map (fun n => (n, claim)) := by
      rw [(searchIndex_frame fp _).2.2.1, turn_claims, spoken_claims]
    unfold claimGet
    rw [h, tableGet_constant _ _ _ _ (List.mem_range.mpr hc)]
    decide

theorem test_lookup_claims :
    onNext (exec (.lookupOperation .p0 .whole) (queuing (.lookup fp true) ready)) (fun t =>
      decide (t.ixc.occupancy = 1) && decide (slotState t 0 = some .pending) && decide ((claimGet t 0).generation = 1#32) &&
        decide ((portUnit t .p0).queue = [])) = true := by decide +kernel

theorem test_met_probe_and_ref :
    HasTurn (queuing (.probe fp) (holding .stored 5#16 ready)) .p0 (entry (.probe fp)) ∧
      (searchIndex fp (turn (.probe fp) (holding .stored 5#16 ready))).2 = some 0 ∧
      (searchIndex fp (turn (.probe fp) ready)).2 = none ∧
      HasTurn (queuing (.ref fp 255) (holding .stored 65280#16 ready)) .p0 (entry (.ref fp 255)) ∧
      imageState (slotGet (searchIndex fp (turn (.ref fp 255) (holding .stored 65280#16 ready))).1 0) = some .stored ∧
      imageState (slotGet (searchIndex fp (turn (.ref fp 1) (holding .zero 0#16 ready))).1 0) = some .zero ∧
      imageState (slotGet (searchIndex fp (turn (.ref fp 1) (holding .pinned 65535#16 ready))).1 0) = some .pinned ∧
      imageState (slotGet (searchIndex fp (turn (.ref fp 1) (claiming claim ready))).1 0) = some .pending ∧
      imageState (slotGet (searchIndex fp (turn (.ref fp 1) (holding .suspect 1#16 ready))).1 0) = some .suspect := by
  unfold HasTurn IsQueued
  decide +kernel

theorem test_met_release :
    HasTurn (queuing (.release fp 5) (holding .stored 5#16 ready)) .p0 (entry (.release fp 5)) ∧
      (slotGet (searchIndex fp (turn (.release fp 5) (holding .stored 5#16 ready))).1 0).refcount.toNat = 5 ∧
      4 < (slotGet (searchIndex fp (turn (.release fp 4) (holding .stored 5#16 ready))).1 0).refcount.toNat ∧
      (slotGet (searchIndex fp (turn (.release fp 6) (holding .stored 5#16 ready))).1 0).refcount.toNat < 6 ∧
      imageState (slotGet (searchIndex fp (turn (.release fp 1) (holding .zero 0#16 ready))).1 0) = some .zero ∧
      imageState (slotGet (searchIndex fp (turn (.release fp 1) (holding .pinned 65535#16 ready))).1 0) = some .pinned := by
  unfold HasTurn IsQueued
  decide +kernel

theorem test_release_to_zero_stamps :
    onNext (exec (.releaseOperation .p0 .whole) (queuing (.release fp 5)
        (holding .stored 5#16 (clocked 77#40 0)))) (fun t =>
      decide (slotState t 0 = some .zero) && decide ((slotGet t 0).zeroSince = 77#40) &&
        imageHolds (slotGet t 0)) = true := by decide +kernel

/-- A STORED entry in container 5, CLOSED, and an OPEN container 6 with a fill. -/
def moving (fill : Nat) : State :=
  containerPut 6 (container .opened fill 0) (containerPut 5 (container .closed 100 1) (holding .stored 5#16 ready))

theorem test_met_move :
    HasTurn (queuing (.move fp 5 6 10 100) (moving 10)) .p0 (entry (.move fp 5 6 10 100)) ∧
      (searchIndex fp (turn (.move fp 5 6 10 100) (moving 10))).2 = some 0 ∧
      (slotGet (moving 10) 0).loc.container.toNat = 5 ∧ (slotGet (moving 10) 0).loc.length.toNat = 100 ∧
      (containerGet (moving 10) 5).state = .closed ∧ (containerGet (moving 10) 6).state = .opened ∧
      (containerGet (moving 10) 6).owner = .p0 ∧ (containerGet (moving 10) 6).fill ≤ 10 ∧
      10 < (containerGet (moving 11) 6).fill ∧ 10 + 100 ≤ 67108864 ∧ 67108864 < 67108863 + 100 ∧
      (containerGet (moving 10) 6).state ≠ .closed ∧ (containerGet (moving 10) 5).state ≠ .opened := by
  unfold HasTurn IsQueued
  decide +kernel

theorem test_move_ends_at_the_container_end :
    onNext (exec (.moveOperation .p0 .whole) (queuing (.move fp 5 6 67108764 100) (moving 10)))
        (fun t => decide ((containerGet t 6).fill = 67108864) && decide ((containerGet t 5).live = 0)) = true ∧
      onNext (exec (.moveOperation .p0 .whole) (queuing (.move fp 5 6 67108765 100) (moving 10)))
        (fun t => decide ((containerGet t 6).fill = 10)) = true := by decide +kernel

/-- A repair's position. -/
def spot : Position := { bucket := 0, index := 0 }

/-- What a RESTORE supplies. -/
def supplied : RestoreBody := { pos := spot, state := .stored, fp := fp, refcount := 2#16, loc := loc, ns := 0#8 }

theorem test_met_repairs :
    HasTurn (queuing (.readSlot spot) ready) .p0 (entry (.readSlot spot)) ∧
      HasTurn (queuing (.drop spot) (holding .stored 1#16 ready)) .p0 (entry (.drop spot)) ∧
      imageState (slotGet (turn (.drop spot) (holding .stored 1#16 ready)) 0) = some .stored ∧
      imageState (slotGet (turn (.drop spot) ready) 0) = some .free ∧
      HasTurn (queuing (.restore supplied) (holding .suspect 1#16 (contained (container .closed 0 1) [] 0 ready))) .p0
        (entry (.restore supplied)) ∧
      imageState (slotGet (turn (.restore supplied) (holding .suspect 1#16 ready)) 0) = some .suspect ∧
      imageState (slotGet (turn (.restore supplied) ready) 0) ≠ some .suspect ∧
      supplied.pos.bucket = homeBucket (bucketCount ready) supplied.fp ∧
      (2 : Nat) ≠ homeBucket (bucketCount ready) fp ∧ (2 : Nat) ≠ alternateBucket (bucketCount ready) fp ∧
      (searchFrom fp ((searchSlots (bucketCount ready) fp).filter (fun m => decide (m ≠ 0)))
        (turn (.restore supplied) (holding .suspect 1#16 ready))).2 = none ∧
      (searchFrom fp ((searchSlots (bucketCount ready) fp).filter (fun m => decide (m ≠ 0)))
        (turn (.restore supplied) (slotPut 3 (imageCounted .stored fp 1#16 loc 0#8 0#40) (holding .suspect 1#16 ready)))).2 ≠
          none ∧
      (containerGet (contained (container .closed 0 1) [] 0 ready) 5).state ≠ .free ∧ (containerGet ready 5).state = .free := by
  unfold HasTurn IsQueued
  decide +kernel

theorem test_restore_into_its_own_container_keeps_counts :
    let s := holding .suspect 1#16 (contained (container .closed 0 0) [] 0 ready)
    onNext (exec (.restoreOperation .p0 .whole) (queuing (.restore supplied) s))
      (fun t => decide ((containerGet t 5).live = 0) && decide ((containerGet t 5).bytes = 0) &&
        decide ((containerGet t 5).fill = 100)) = true := by decide +kernel

theorem test_met_zero_fingerprint :
    HasTurn (queuing (.ref 0#256 1) ready) .p0 (entry (.ref 0#256 1)) ∧
      turnCommand (entry (.ref 0#256 1)).kind .p0 .whole = some (.refOperation .p0 .whole) ∧
      CanTake (queuing (.commit { startCount := 0#16, claim := 0#16, generation := 0#32 } 0#256 loc) ready) .p0
        (entry (.commit { startCount := 0#16, claim := 0#16, generation := 0#32 } 0#256 loc)) ∧
      CanTake (queuing (.abandon { startCount := 0#16, claim := 0#16, generation := 0#32 } 0#256) ready) .p0
        (entry (.abandon { startCount := 0#16, claim := 0#16, generation := 0#32 } 0#256)) := by
  unfold HasTurn IsQueued CanTake
  decide +kernel

/-! ## The conditions of the statements are met: claims, batches, sweeper -/

/-- The token of the small claim. -/
def token : Token := { startCount := 0#16, claim := 0#16, generation := 3#32 }

/-- A parked LOOKUP and a batch queued at port 0, beside a CANCEL. -/
def cancelling (target : Tag) (s : State) : State :=
  updPort .p0 (fun u =>
    { u with queue :=
        [{ entry (.lookup fp true) with tag := 1#16, phase := .parked },
          { entry (.batch { kind := .lookup, wait := true, checkWord := 0#32, items := [] }) with tag := 2#16, taken := true },
          entry (.cancel target)] }) s

theorem test_met_claim_requests :
    CanTake (queuing (.commit token fp loc) (claiming claim ready)) .p0 (entry (.commit token fp loc)) ∧
      tableWf ClaimRec.zero (claiming claim ready).clu.claims = true ∧
      token.startCount = (claiming claim ready).mif.startCount ∧ token.claim.toNat < 1024 ∧
      (claimGet (claiming claim ready) 0).phase = .held ∧ token.generation = (claimGet (claiming claim ready) 0).generation ∧
      (claimGet (claiming claim ready) 0).claimant.map (fun w => w.port) = some .p0 ∧
      2#256 ≠ (claimGet (claiming claim ready) 0).fp ∧ (claimGet ready 0).phase ≠ .held ∧
      CanTake (queuing (.abandon token fp) (claiming claim ready)) .p0 (entry (.abandon token fp)) ∧
      CanTake (cancelling 1#16 ready) .p0 (entry (.cancel 1#16)) ∧
      (queued (cancelling 1#16 ready) .p0 1#16).map (fun x => x.phase) = some .parked ∧
      CanTake (cancelling 2#16 ready) .p0 (entry (.cancel 2#16)) ∧
      (queued (cancelling 2#16 ready) .p0 2#16).map (fun x => x.kind) = some .lookupBatch ∧
      CanTake (cancelling 7#16 ready) .p0 (entry (.cancel 7#16)) ∧
      (queued (cancelling 7#16 ready) .p0 7#16).map (fun x => x.kind) = some .cancel ∧
      queued (cancelling 3#16 ready) .p0 3#16 = none := by
  unfold CanTake
  decide +kernel

theorem test_met_release_of_claim :
    (claimGet (claiming claim ready) 0).waiters = [] ∧
      (claimGet crowded 0).waiters.head? = some { port := .p1, ns := 0, origin := .single 4#16 0#16 } ∧
      (claimGet (claiming { claim with waiters := [{ port := .p1, ns := 0, origin := .item 0 0 }] } ready) 0).waiters =
        [{ port := .p1, ns := 0, origin := .item 0 0 }] ∧
      (claiming claim ready).powered = true ∧ (claiming claim ready).ixc.inProgress = none ∧
      (claimGet (claiming { claim with deadline := 0 } ready) 0).deadline ≤ ready.tmb.ms ∧
      ready.tmb.ms < (claimGet (claiming claim ready) 0).deadline := by decide +kernel

/-- An update of claim 0 queued and its turn next. -/
def updating (u : Update) (r : ClaimRec) (s : State) : State :=
  let s := claiming r s
  { s with clu := { s.clu with updates := [u] } }

/-- The claim in SETTLING. -/
def settling : ClaimRec :=
  { claim with phase := .settling, details := some { loc := loc, tag := 9#16, mark := 0#16 } }

theorem test_met_claim_updates :
    (updating (.entry 0) settling ready).powered = true ∧
      nextRequester (updating (.entry 0) settling ready) = some .clu ∧
      nextRequester (updating (.freeing 0) { claim with phase := .closing } ready) = some .clu ∧
      (updating (.entry 0) settling ready).clu.updates = [.entry 0] ∧
      (verifyClaimed 0 (updating (.entry 0) settling ready)).mem.slots = (updating (.entry 0) settling ready).mem.slots ∧
      (claimGet (updating (.entry 0) settling ready) 0).details = some { loc := loc, tag := 9#16, mark := 0#16 } ∧
      (containerGet (updating (.entry 0) settling (contained (container .opened 0 0) [] 1 ready)) 5).state = .opened ∧
      (containerGet (updating (.entry 0) settling (contained (container .opened 0 0) [] 1 ready)) 5).owner = .p0 ∧
      (containerGet (updating (.entry 0) settling (contained (container .opened 1 0) [] 1 ready)) 5).fill = 1 ∧
      (containerGet (updating (.entry 0) settling ready) 5).state ≠ .opened := by decide +kernel

theorem test_commit_stores_entry :
    onNext (exec (.commitEntryUpdate .whole) (updating (.entry 0) settling (contained (container .opened 0 0) [] 1 ready)))
      (fun t => decide (slotGet t 0 = imageCounted .stored fp 1#16 loc 0#8 0#40) && decide ((claimGet t 0).phase = .free) &&
        decide ((claimGet t 0).generation = 3#32) && decide ((containerGet t 5).fill = 100)) = true := by decide +kernel

theorem test_freeing_update_frees :
    onNext (exec (.freeingUpdate .whole) (updating (.freeing 0) { claim with phase := .closing }
        { ready with ixc := { ready.ixc with occupancy := 1 } }))
      (fun t => decide (slotGet t 0 = SlotImage.free) && decide (t.ixc.occupancy = 0) &&
        decide ((claimGet t 0).phase = .free)) = true := by decide +kernel

/-- A batch of one item with its check word. -/
def batch (w : BitVec 32) : BatchBody := { kind := .lookup, wait := true, checkWord := w, items := [{ fp := fp, n := 0 }] }

/-- All eight contexts in use. -/
def engaged : State := { ready with bte := { ready.bte with contexts := (List.range 8).map (fun n => (n, context)) } }

theorem test_met_batch_start :
    CanTake (queuing (.batch (batch 1#32)) ready) .p0 (entry (.batch (batch 1#32))) ∧
      (batch 1#32).checkWord = checkWordOf (batch 1#32).items ∧ (batch 0#32).checkWord ≠ checkWordOf (batch 0#32).items ∧
      (contextGet ready 0).phase = .free ∧ (∀ n ∈ List.range 8, (contextGet engaged n).phase ≠ .free) ∧
      CanTake (queuing (.batch (batch 1#32)) engaged) .p0 (entry (.batch (batch 1#32))) ∧
      blockCommand .lookupBatch .p0 (.take 7#16) = some (.lookupBatch .p0 (.take 7#16)) ∧
      blockCommand .probeBatch .p0 (.take 7#16) = some (.probeBatch .p0 (.take 7#16)) ∧
      blockCommand .releaseBatch .p0 (.take 7#16) = some (.releaseBatch .p0 (.take 7#16)) := by
  unfold CanTake
  decide +kernel

/-- Context 0 in use with its item held at the arbiter. -/
def presenting (c : Context) : State :=
  { contextPut 0 c ready with bte := { (contextPut 0 c ready).bte with held := some 0 } }

theorem test_met_batch_item :
    (presenting context).powered = true ∧ nextRequester (presenting context) = some .bte ∧
      (presenting context).bte.held = some 0 ∧ (contextGet (presenting context) 0).phase = .running ∧
      (contextGet (presenting context) 0).cancelled = false ∧
      (contextGet (presenting context) 0).items[(contextGet (presenting context) 0).cursor]? = some { fp := fp, n := 0 } ∧
      (lookupCore { port := .p0, ns := 0, origin := .item 0 0 } fp true (presenting context)).2 ≠ none ∧
      (lookupCore { port := .p0, ns := 0, origin := .item 0 0 } fp true (claiming claim (presenting context))).2 = none ∧
      context.items.length ≤ context.cursor + 1 ∧
      { context with items := context.items ++ context.items }.cursor + 1 <
        { context with items := context.items ++ context.items }.items.length ∧
      hasItem (contextGet (contextPut 7 context ready) 7) = true ∧ hasItem (contextGet ready 0) = false := by decide +kernel

/-- A context whose next item has a fingerprint of 32 zero bytes. -/
def zeroItems (items : List BatchItem) (parked : Nat) : State :=
  presenting { context with items := { fp := 0#256, n := 0 } :: items, parked := parked }

theorem test_met_zero_item :
    (zeroItems [] 0).powered = true ∧ nextRequester (zeroItems [] 0) = some .bte ∧ (zeroItems [] 0).bte.held = some 0 ∧
      (contextGet (zeroItems [] 0) 0).phase = .running ∧ (contextGet (zeroItems [] 0) 0).cancelled = false ∧
      (contextGet (zeroItems [] 0) 0).items[(contextGet (zeroItems [] 0) 0).cursor]? = some { fp := 0#256, n := 0 } ∧
      (contextGet (zeroItems [] 0) 0).items.length ≤ (contextGet (zeroItems [] 0) 0).cursor + 1 ∧
      (contextGet (zeroItems [] 0) 0).parked = 0 ∧ (contextGet (zeroItems [] 1) 0).parked ≠ 0 ∧
      (contextGet (zeroItems [{ fp := fp, n := 0 }] 0) 0).cursor + 1 <
        (contextGet (zeroItems [{ fp := fp, n := 0 }] 0) 0).items.length := by decide +kernel

theorem test_batch_item_parks :
    onNext (exec (.batchItemOperation .whole) (claiming claim (presenting context)))
      (fun t => decide ((contextGet t 0).phase = .awaiting) && decide ((contextGet t 0).parked = 1)) = true := by
  decide +kernel

/-- A message at the head of the claim unit's path, for a context with its item PARKED. -/
def messaged (m : BteMessage) (c : Context) : State :=
  { contextPut 0 c ready with bte := { (contextPut 0 c ready).bte with inbox := [m] } }

/-- A context AWAITING its one item. -/
def awaiting : Context := { context with phase := .awaiting, outcomes := [.parked], parked := 1, cursor := 1 }

theorem test_met_messages :
    (messaged (.itemAnswer 0 0 .p0 .withdrawn) awaiting).powered = true ∧
      (messaged (.itemAnswer 0 0 .p0 .withdrawn) awaiting).ixc.inProgress = none ∧
      tableWf Context.zero (messaged (.itemAnswer 0 0 .p0 .withdrawn) awaiting).bte.contexts = true ∧
      awaiting.phase = .awaiting ∧ awaiting.port = .p0 ∧ awaiting.outcomes[0]? = some .parked ∧
      awaiting.outcomes[1]? ≠ some .parked ∧ { awaiting with withdrawal := true }.withdrawal = true ∧
      awaiting.withdrawal = false ∧ awaiting.port ≠ .p1 ∧ Context.zero.phase = .free ∧ [0].Nodup ∧
      (messaged (.teardownCompletion .p0) (withheldContext .p0)).bte.inbox = [.teardownCompletion .p0] ∧
      (contextGet (messaged (.teardownCompletion .p0) (withheldContext .p0)) 0).phase = .withheld .p0 := by decide +kernel

theorem test_item_answer_ends_batch :
    onNext (exec .itemAnswer (messaged (.itemAnswer 0 0 .p0 .withdrawn) awaiting))
      (fun t => decide ((contextGet t 0).phase = .free) && decide (t.bte.inbox = [])) = true := by decide +kernel

theorem test_met_withdrawals :
    findContext (messaged (.cancellation .p0 7#16 9#16 0#16) awaiting) .p0 7#16 = some 0 ∧
      findContext (messaged (.cancellation .p0 8#16 9#16 0#16) awaiting) .p0 8#16 = none ∧
      awaiting.cancelled = false ∧ awaiting.parked ≠ 0 ∧ context.parked = 0 ∧
      { context with cancelled := true }.cancelled = true ∧
      tableWf ClaimRec.zero (claiming claim ready).clu.claims = true ∧
      { (claiming claim ready).clu with withdrawals := [(0, .p0)] }.withdrawals = [(0, .p0)] ∧
      (claiming claim ready).ixc.inProgress = none := by decide +kernel

/-- The sweeper behind its rate at a cursor, in a mode. -/
def sweeping (mode : SweepMode) (cursor : Nat) (s : State) : State :=
  { s with
    params := { s.params with sweepMode := mode, graceS := 10 }, swp := { s.swp with cursor := cursor, allowance := 1 } }

theorem test_allowance_of_zero_stays_at_zero :
    onNext (exec (.sweeperBucketOperation .finish) (granted ready))
      (fun t => decide (t.swp.allowance = 0) && decide (t.swp.cursor = ready.swp.cursor + 1)) = true := by
  decide +kernel

theorem test_met_sweeper :
    (sweeping .scrub 0 ready).powered = true ∧ nextRequester (sweeping .scrub 0 ready) = some .swp ∧
      nextRequester (sweeping .purge 2097151 ready) = some .swp ∧
      (sweeping .scrub 2097150 ready).swp.cursor + 1 < bucketCount (sweeping .scrub 2097150 ready) ∧
      bucketCount (sweeping .scrub 2097151 ready) ≤ (sweeping .scrub 2097151 ready).swp.cursor + 1 := by decide +kernel

theorem test_purge_follows_grace :
    onNext (exec (.sweeperBucketOperation .whole) (sweeping .purge 0 (holding .zero 0#16 (clocked 10#40 0))))
        (fun t => decide (slotGet t 0 = SlotImage.free) && decide (t.swp.cursor = 1)) = true ∧
      onNext (exec (.sweeperBucketOperation .whole) (sweeping .purge 0 (holding .zero 0#16 (clocked 9#40 0))))
        (fun t => decide (slotState t 0 = some .zero) && decide (t.swp.allowance = 0)) = true := by decide +kernel

/-! ## Frames and the queue -/

theorem test_request_frames_read_back :
    requestInRange (.setPort none (some 0x8000000000000001#64) none) = true ∧
      readRequest .setPort (requestFrame (.setPort none (some 0x8000000000000001#64) none) 63 7#16) =
        some (.setPort none (some 0x8000000000000001#64) none) ∧
      readRequest .restore (requestFrame (.restore supplied) 0 7#16) = some (.restore supplied) ∧
      readRequest .lookupBatch (requestFrame (.batch (batch 1#32)) 0 7#16) = some (.batch (batch 1#32)) := by
  decide +kernel

theorem test_frames_that_no_kind_spells :
    readRequest .probe (requestFrame (.lookup fp true) 0 7#16) = none ∧
      readRequest .identify { frame .identify with bodyLength := 1#16, body := [0#8] } = none ∧
      readRequest .ref (frame (.ref fp 0)) = none ∧ readRequest .identify { frame .identify with ns := 64#8 } = none ∧
      readRequest .setPort { frame (.setPort none none none) with
        body := [0xFF#8, 0#8] ++ List.replicate 8 0xAA#8 ++ [0xFF#8] } = some (.setPort none none none) := by
  decide +kernel

theorem test_fifo :
    onNext (step ((ready.withPending [.firstSymbol .p2, .firstSymbol .p3])))
      (fun t => decide ((portUnit t .p2).state = .fenced) && decide ((portUnit t .p3).state = .down) &&
        decide (t.pending = [.firstSymbol .p3])) = true := by decide +kernel

theorem test_met_invariants : PortsOk ready ∧ TablesOk ready ∧ CountersOk ready := by
  refine ⟨portsOk_of ?_ ?_ ?_ ?_, ?_, ?_⟩
  · unfold UnitOk AttnOk DownOk QueueOk LinkOk
    decide +kernel
  · unfold UnitOk AttnOk DownOk QueueOk LinkOk
    decide +kernel
  · unfold UnitOk AttnOk DownOk QueueOk LinkOk
    decide +kernel
  · unfold UnitOk AttnOk DownOk QueueOk LinkOk
    decide +kernel
  · unfold TablesOk
    decide +kernel
  · unfold CountersOk
    decide +kernel

end Sys2Proof.Machine.Tests
end

section
/-! Lookups and references: what a whole turn of a LOOKUP and of a RELEASE comes to once its search has matched
(R24 to R29, R34 to R37). -/

namespace Sys2Proof.Machine

/-! ## Turns -/

/-- A grant changes the arbiter alone (R19). -/
theorem turnBegun_quiet (p : Port) (e : QEntry) (s : State) : QuietWork (turnBegun p e s) s :=
  ⟨.of_ports rfl, rfl⟩

theorem HasTurn.isQueued {s : State} {p : Port} {e : QEntry} (h : HasTurn s p e) : IsQueued s p e := h.2.2.2

/-- A request that had the turn is answered after any work of the index (R20, R143). -/
theorem HasTurn.answers {s t : State} {p : Port} {e : QEntry} (h : HasTurn s p e) (hw : QuietWork t (turnBegun p e s))
    (a : Answer) : answerEntry p e a (endTurn t) = answered p e a (endTurn t) := by
  obtain ⟨hn, hm⟩ := hw.trans (turnBegun_quiet p e s)
  refine answerEntry_answered (h.isQueued.of_notices (.trans (.of_ports (by simp)) hn)) ?_ a
  simp only [endTurn_frame, hm]
  exact h.restart

/-- A whole turn of a LOOKUP that does not park is answered with the outcome of its work (R20, R25 to R30). -/
theorem lookupTurn_answered {s t : State} {p : Port} {e : QEntry} {fp : Fingerprint} {wait : Bool} {o : IndexOutcome}
    (h : HasTurn s p e) (hk : e.kind = .lookup) (hreq : e.request = .lookup fp wait)
    (hwork : lookupCore { port := p, ns := e.ns, origin := .single e.tag e.mark } fp wait (turnBegun p e s) =
      (t, some o)) :
    exec (.lookupOperation p .whole) s = .next (answered p e (.index o) (endTurn t)) := by
  have hq := lookupCore_quiet { port := p, ns := e.ns, origin := .single e.tag e.mark } fp wait (turnBegun p e s)
  rw [hwork] at hq
  have hg : grantPort p .lookup s = some (turnBegun p e s, .port p e) := hk ▸ grantPort_some h
  have hf : finishLookup p (.port p e) (turnBegun p e s) = answered p e (.index o) (endTurn t) := by
    simp only [finishLookup, hreq, hwork]
    exact h.answers hq _
  calc exec (.lookupOperation p .whole) s
      = .next (whenPowered s (runTurn (grantPort p .lookup) (finishLookup p) (isPortTurn p .lookup) .whole)) := rfl
    _ = .next (finishLookup p (.port p e) (turnBegun p e s)) := by simp only [whenPowered, h.1, if_true, runTurn, hg]
    _ = .next (answered p e (.index o) (endTurn t)) := by rw [hf]

/-- A whole turn of a RELEASE is answered with the outcome of its work (R20, R34). -/
theorem releaseTurn_answered {s t : State} {p : Port} {e : QEntry} {fp : Fingerprint} {k : Nat} {o : IndexOutcome}
    (h : HasTurn s p e) (hk : e.kind = .release) (hreq : e.request = .release fp k)
    (hwork : releaseCore p e.ns fp k (turnBegun p e s) = (t, o)) :
    exec (.releaseOperation p .whole) s = .next (answered p e (.index o) (endTurn t)) := by
  have hcore : releaseOf p e (turnBegun p e s) = (t, .index o) := by simp only [releaseOf, hreq, hwork, indexAnswer]
  have hq := releaseCore_quiet p e.ns fp k (turnBegun p e s)
  rw [hwork] at hq
  obtain ⟨hn, hm⟩ := hq.trans (turnBegun_quiet p e s)
  have hturn := portTurn_whole h (releaseOf p) (isPortTurn p .release) (by rw [hcore]; exact hn) (by rw [hcore, hm])
  rw [hk, hcore] at hturn
  exact congrArg _ hturn

/-! ## LOOKUP on the slot that its search matched -/

theorem lookupCore_of_found {s s1 : State} {fp : Fingerprint} {n : Nat} (w : Waiter) (wait : Bool) (hfp : fp ≠ 0#256)
    (hs : searchIndex fp s = (s1, some n)) : lookupCore w fp wait s = lookupMatch w wait n s1 := by
  unfold lookupCore
  simp only [hfp, if_false, hs]

/-- One reference added to a refcount: at 65,534 and above the entry is PINNED at 65,535 (R24, R25). -/
theorem imageWithRefs_add_one (im : SlotImage) :
    imageWithRefs im (refSum im.refcount 1) =
      if 65534 ≤ im.refcount.toNat then imageCounted .pinned im.fp 0xFFFF#16 im.loc im.ns 0#40
      else imageCounted .stored im.fp (im.refcount + 1#16) im.loc im.ns 0#40 := by
  unfold imageWithRefs refSum Config.refcountMax
  by_cases hmax : 65534 ≤ im.refcount.toNat
  · have hsum : min 65535 (im.refcount.toNat + 1) = 65535 := by omega
    simp only [hsum, hmax, if_true]
  · have hsum : min 65535 (im.refcount.toNat + 1) = im.refcount.toNat + 1 := by omega
    have hne : im.refcount.toNat + 1 ≠ 65535 := by omega
    have hbits : BitVec.ofNat 16 (im.refcount.toNat + 1) = im.refcount + 1#16 := by bv_omega
    simp only [hsum, hmax, hne, if_false, hbits]

/-- Adding one reference saturates from 65,534 on (R24). -/
theorem refSum_one_eq_max (r : BitVec 16) : refSum r 1 = Config.refcountMax ↔ 65534 ≤ r.toNat := by
  unfold refSum Config.refcountMax
  omega

/-- A LOOKUP adds one reference to a STORED entry, with saturation (R24, R25). -/
theorem lookupMatch_stored {s : State} {n : Nat} (w : Waiter) (wait : Bool)
    (h : imageState (slotGet s n) = some .stored) :
    lookupMatch w wait n s =
      (countHit w.ns (slotGet s n).loc (slotPut n
          (if 65534 ≤ (slotGet s n).refcount.toNat then
            imageCounted .pinned (slotGet s n).fp 0xFFFF#16 (slotGet s n).loc (slotGet s n).ns 0#40
          else imageCounted .stored (slotGet s n).fp ((slotGet s n).refcount + 1#16) (slotGet s n).loc
            (slotGet s n).ns 0#40) s),
        some (.duplicate (slotGet s n).loc (decide (65534 ≤ (slotGet s n).refcount.toNat)) false)) := by
  simp only [lookupMatch, h, addReferences, imageWithRefs_add_one, refSum_one_eq_max]

/-- A LOOKUP resurrects a ZERO entry with one reference (R26). -/
theorem lookupMatch_zero {s : State} {n : Nat} (w : Waiter) (wait : Bool)
    (h : imageState (slotGet s n) = some .zero) :
    lookupMatch w wait n s =
      (countHit w.ns (slotGet s n).loc (slotPut n
          (imageCounted .stored (slotGet s n).fp 1#16 (slotGet s n).loc (slotGet s n).ns 0#40) s),
        some (.duplicate (slotGet s n).loc false true)) := by
  have himage : ∀ im, imageWithRefs im 1 = imageCounted .stored im.fp 1#16 im.loc im.ns 0#40 := fun _ => rfl
  simp only [lookupMatch, h, addReferences, himage]

/-- A LOOKUP leaves a PINNED entry as it is (R27). -/
theorem lookupMatch_pinned {s : State} {n : Nat} (w : Waiter) (wait : Bool)
    (h : imageState (slotGet s n) = some .pinned) :
    lookupMatch w wait n s =
      (countHit w.ns (slotGet s n).loc s, some (.duplicate (slotGet s n).loc true false)) := by
  simp only [lookupMatch, h, addReferences]

/-- A LOOKUP on a SUSPECT entry changes nothing (R29). -/
theorem lookupMatch_suspect {s : State} {n : Nat} (w : Waiter) (wait : Bool)
    (h : imageState (slotGet s n) = some .suspect) : lookupMatch w wait n s = (s, some .suspect) := by
  simp only [lookupMatch, h]

/-- Settles O39: the turn is reduced to `lookupMatch` on the slot found, and each entry state has its equation. -/
theorem lookupAddsReference : Obligations.LookupAddsReference := by
  intro s p e fp wait hturn hkind hreq hfp s1 n hsearch im counted
  have hanswer : ∀ {t o},
      lookupMatch { port := p, ns := e.ns, origin := .single e.tag e.mark } wait n s1 = (t, some o) →
      exec (.lookupOperation p .whole) s = .next (answered p e (.index o) (endTurn t)) := fun hmatch =>
    lookupTurn_answered hturn hkind hreq ((lookupCore_of_found _ wait hfp hsearch).trans hmatch)
  refine ⟨fun hstored => ?_, fun hzero => ?_, fun hpinned => ?_, fun hsuspect => ?_⟩
  · exact hanswer (lookupMatch_stored _ wait hstored)
  · exact hanswer (lookupMatch_zero _ wait hzero)
  · exact hanswer (lookupMatch_pinned _ wait hpinned)
  · exact hanswer (lookupMatch_suspect _ wait hsuspect)

/-! ## RELEASE on the slot that its search matched -/

theorem releaseCore_of_absent {s s1 : State} {fp : Fingerprint} (p : Port) (ns k : Nat) (hfp : fp ≠ 0#256)
    (hs : searchIndex fp s = (s1, none)) : releaseCore p ns fp k s = (s1, .notFound) := by
  unfold releaseCore
  simp only [hfp, if_false, hs]

/-- What a RELEASE does with a matched slot of a state (R34 to R36); `releaseCore_of_found` ties it to the model. -/
def releaseMatch (p : Port) (ns slot k : Nat) (s : State) : EntryState → State × IndexOutcome
  | .stored => releaseStored p ns slot k s
  | .zero => (raiseTo p .underflow s, .underflow)
  | .pinned => (s, .pinned)
  | .pending => (s, .inProgress (slotGet s slot).claim)
  | .free | .suspect => (s, .suspect)

theorem releaseCore_of_found {s s1 : State} {fp : Fingerprint} {n : Nat} {st : EntryState} (p : Port) (ns k : Nat)
    (hfp : fp ≠ 0#256) (hs : searchIndex fp s = (s1, some n)) (hst : imageState (slotGet s1 n) = some st) :
    releaseCore p ns fp k s = releaseMatch p ns n k s1 st := by
  unfold releaseCore
  simp only [hfp, if_false, hs, slotState, hst]
  cases st <;> rfl

/-- Fewer references than the entry holds: it stays STORED with the difference (R35). -/
theorem releaseStored_partial {s : State} {n k : Nat} (p : Port) (ns : Nat) (h : k < (slotGet s n).refcount.toNat) :
    releaseStored p ns n k s =
      (countNs ns .releases 1 (slotPut n
          (imageCounted .stored (slotGet s n).fp (BitVec.ofNat 16 ((slotGet s n).refcount.toNat - k)) (slotGet s n).loc
            (slotGet s n).ns 0#40) s),
        .released (BitVec.ofNat 16 ((slotGet s n).refcount.toNat - k))) := by
  have hge : ¬ (slotGet s n).refcount.toNat < k := by omega
  have hne : (slotGet s n).refcount.toNat ≠ k := by omega
  simp only [releaseStored, imageReleased, hge, hne, if_false]

/-- As many references as the entry holds: it is left ZERO with the clock as its stamp (R35). -/
theorem releaseStored_all {s : State} {n k : Nat} (p : Port) (ns : Nat) (h : (slotGet s n).refcount.toNat = k) :
    releaseStored p ns n k s =
      (countNs ns .zeroed 1 (countNs ns .releases 1 (slotPut n
          (imageCounted .zero (slotGet s n).fp 0#16 (slotGet s n).loc (slotGet s n).ns s.tmb.clock) s)),
        .released 0#16) := by
  simp only [releaseStored, imageReleased, h, Nat.lt_irrefl, Nat.sub_self, if_true, if_false]

/-- More references than the entry holds: UNDERFLOW (R36). -/
theorem releaseStored_underflow {s : State} {n k : Nat} (p : Port) (ns : Nat) (h : (slotGet s n).refcount.toNat < k) :
    releaseStored p ns n k s = (raiseTo p .underflow s, .underflow) := by
  simp only [releaseStored, h, if_true]

/-- Settles O43: the turn is reduced to `releaseMatch` by the entry's state, and a STORED entry is split by how its
refcount stands to the number released. -/
theorem releaseSubtractsOrRefuses : Obligations.ReleaseSubtractsOrRefuses := by
  intro s p e fp k hturn hkind hreq hfp s1 found hsearch
  refine ⟨fun hnone => ?_, fun n hsome => ?_⟩
  · subst hnone
    exact releaseTurn_answered hturn hkind hreq (releaseCore_of_absent p e.ns k hfp hsearch)
  · subst hsome
    have hanswer : ∀ {st t o}, imageState (slotGet s1 n) = some st → releaseMatch p e.ns n k s1 st = (t, o) →
        exec (.releaseOperation p .whole) s = .next (answered p e (.index o) (endTurn t)) := fun hst hmatch =>
      releaseTurn_answered hturn hkind hreq ((releaseCore_of_found p e.ns k hfp hsearch hst).trans hmatch)
    refine ⟨fun hstored hlt => ?_, fun hstored heq => ?_, ?_, fun hpinned => ?_, fun hpending => ?_,
      fun hsuspect => ?_⟩
    · exact hanswer hstored (releaseStored_partial p e.ns hlt)
    · exact hanswer hstored (releaseStored_all p e.ns heq)
    · rintro (hzero | ⟨hstored, hgt⟩)
      · exact hanswer hzero rfl
      · exact hanswer hstored (releaseStored_underflow p e.ns hgt)
    · exact hanswer hpinned rfl
    · exact hanswer hpending rfl
    · exact hanswer hsuspect rfl

end Sys2Proof.Machine
end

section
/-! Container requests: what each comes to once the container unit takes it (R73 to R76). -/

namespace Sys2Proof.Machine

/-! ## Container requests answered in the event that takes them -/

theorem evalContainersLow_quiet (s : State) : QuietWork (evalContainersLow s) s :=
  ⟨evalContainersLow_notices s, by simp⟩

/-- A container request that can be taken is answered with the outcome of its work (R88, R143). -/
theorem containerRequest_answered {s t : State} {p : Port} {e : QEntry} {k : Kind} {a : Answer}
    {work : Port → QEntry → State → State × Answer} (h : CanTake s p e) (hk : e.kind = k)
    (hq : QuietWork (work p e s).1 s) (hwork : work p e s = (t, a)) :
    whenPowered s (runContainer k work p (.request (.take e.tag))) = answered p e a t := by
  have hrun := runRequest_answering h work hq.1 hq.2
  rw [hwork, hk] at hrun
  exact hrun

/-! ## OPEN_CONTAINER (R73) -/

theorem openContainerWork_quiet (p : Port) (e : QEntry) (s : State) : QuietWork (openContainerWork p e s).1 s := by
  unfold openContainerWork
  split
  · exact .rfl
  · split
    · exact .rfl
    · exact (evalContainersLow_quiet _).trans ⟨.of_ports rfl, rfl⟩

theorem openContainerWork_of_limit {s : State} {p : Port} (e : QEntry) (h : fourGet s.ctu.openCount p = 4) :
    openContainerWork p e s = (s, .openLimit) := if_pos h

theorem openContainerWork_of_noFree {s : State} {p : Port} (e : QEntry) (h : fourGet s.ctu.openCount p ≠ 4)
    (hfree : s.ctu.freeList = []) : openContainerWork p e s = (s, .noContainer) := by
  simp only [openContainerWork, Config.openLimit, h, if_false, hfree]

theorem openContainerWork_of_free {s : State} {p : Port} (e : QEntry) (h : fourGet s.ctu.openCount p ≠ 4) {c : Nat}
    {rest : List Nat} (hfree : s.ctu.freeList = c :: rest) :
    openContainerWork p e s =
      (evalContainersLow
        { containerPut c { containerGet s c with state := .opened, owner := p, fill := 0 } s with
          ctu :=
            { s.ctu with
              freeList := rest, openCount := fourSet s.ctu.openCount p (fourGet s.ctu.openCount p + 1) } },
        .done (.opened c)) := by
  simp only [openContainerWork, Config.openLimit, h, if_false, hfree, containerPut_frame]

/-! ## CLOSE_CONTAINER (R74) -/

theorem closeContainerWork_quiet (p : Port) (e : QEntry) (s : State) : QuietWork (closeContainerWork p e s).1 s := by
  unfold closeContainerWork
  split
  · dsimp only
    split
    · exact .rfl
    · split
      · exact .rfl
      · exact ⟨.of_ports rfl, rfl⟩
  · exact .rfl

section
variable {s : State} {p : Port} {e : QEntry} {c : Nat}

theorem closeContainerWork_of_notOpen (hreq : e.request = .closeContainer c)
    (hstate : (containerGet s c).state ≠ .opened) : closeContainerWork p e s = (s, .wrongState) := by
  simp only [closeContainerWork, hreq, hstate, ne_eq, not_false_eq_true, if_true]

theorem closeContainerWork_of_other (hreq : e.request = .closeContainer c)
    (hstate : (containerGet s c).state = .opened) (howner : (containerGet s c).owner ≠ p) :
    closeContainerWork p e s = (s, .notOwner) := by
  simp only [closeContainerWork, hreq, hstate, howner, ne_eq, not_true_eq_false, not_false_eq_true, if_true, if_false]

theorem closeContainerWork_of_owner (hreq : e.request = .closeContainer c)
    (hstate : (containerGet s c).state = .opened) (howner : (containerGet s c).owner = p) :
    closeContainerWork p e s =
      ({ containerPut c { containerGet s c with state := .closed, owner := .p0 } s with
          ctu := { s.ctu with openCount := fourSet s.ctu.openCount p (fourGet s.ctu.openCount p - 1) } },
        .done .none) := by
  simp only [closeContainerWork, hreq, hstate, howner, ne_eq, not_true_eq_false, if_false, containerPut_frame]

/-! ## RECLAIM (R75) -/

theorem reclaimWork_quiet (p : Port) (e : QEntry) (s : State) : QuietWork (reclaimWork p e s).1 s := by
  unfold reclaimWork
  split
  · dsimp only
    split
    · exact .rfl
    · split
      · exact .rfl
      · exact (evalContainersLow_quiet _).trans ⟨.of_ports rfl, rfl⟩
  · exact .rfl

theorem reclaimWork_of_notClosed (hreq : e.request = .reclaim c) (hstate : (containerGet s c).state ≠ .closed) :
    reclaimWork p e s = (s, .wrongState) := by
  simp only [reclaimWork, hreq, hstate, ne_eq, not_false_eq_true, if_true]

theorem reclaimWork_of_live (hreq : e.request = .reclaim c) (hstate : (containerGet s c).state = .closed)
    (hlive : (containerGet s c).live ≠ 0) : reclaimWork p e s = (s, .notEmpty) := by
  simp only [reclaimWork, hreq, hstate, hlive, ne_eq, not_true_eq_false, not_false_eq_true, if_true, if_false]

theorem reclaimWork_of_empty (hreq : e.request = .reclaim c) (hstate : (containerGet s c).state = .closed)
    (hlive : (containerGet s c).live = 0) :
    reclaimWork p e s =
      (evalContainersLow
        { containerPut c { containerGet s c with state := .free, fill := 0, bytes := 0 } s with
          ctu := { s.ctu with freeList := s.ctu.freeList ++ [c] } },
        .done .none) := by
  simp only [reclaimWork, hreq, hstate, hlive, ne_eq, not_true_eq_false, if_false, containerPut_frame]

end

/-- Settles O22: each request is reduced to its work, and the work is split along its tests in their order. -/
theorem containerRequestsActByState : Obligations.ContainerRequestsActByState := by
  refine ⟨fun s p e htake hkind => ?_, fun s p e c htake hkind hreq => ?_, fun s p e c htake hkind hreq => ?_⟩
  · have hanswer : ∀ {t a}, openContainerWork p e s = (t, a) →
        exec (.openContainer p (.request (.take e.tag))) s = .next (answered p e a t) := fun hwork =>
      congrArg _ (containerRequest_answered htake hkind (openContainerWork_quiet p e s) hwork)
    exact ⟨fun hlimit => hanswer (openContainerWork_of_limit e hlimit),
      fun hlimit hnone => hanswer (openContainerWork_of_noFree e hlimit hnone),
      fun c rest hlimit hfree => hanswer (openContainerWork_of_free e hlimit hfree)⟩
  · have hanswer : ∀ {t a}, closeContainerWork p e s = (t, a) →
        exec (.closeContainer p (.request (.take e.tag))) s = .next (answered p e a t) := fun hwork =>
      congrArg _ (containerRequest_answered htake hkind (closeContainerWork_quiet p e s) hwork)
    exact ⟨fun hstate => hanswer (closeContainerWork_of_notOpen hreq hstate),
      fun hstate howner => hanswer (closeContainerWork_of_other hreq hstate howner),
      fun hstate howner => hanswer (closeContainerWork_of_owner hreq hstate howner)⟩
  · have hanswer : ∀ {t a}, reclaimWork p e s = (t, a) →
        exec (.reclaim p (.request (.take e.tag))) s = .next (answered p e a t) := fun hwork =>
      congrArg _ (containerRequest_answered htake hkind (reclaimWork_quiet p e s) hwork)
    exact ⟨fun hstate => hanswer (reclaimWork_of_notClosed hreq hstate),
      fun hstate hlive => hanswer (reclaimWork_of_live hreq hstate hlive),
      fun hstate hlive => hanswer (reclaimWork_of_empty hreq hstate hlive)⟩

/-! ## Tables searched in the order of their numbers -/

/-- A record other than the unlisted one is read from a pair of the table. -/
theorem mem_of_tableGet_ne {α : Type} {d : α} {t : List (Nat × α)} {k : Nat} (h : tableGet d t k ≠ d) :
    (k, tableGet d t k) ∈ t := by
  induction t with
  | nil => exact absurd rfl h
  | cons x rest ih =>
    obtain ⟨j, v⟩ := x
    by_cases hj : j = k
    · simp [tableGet, hj]
    · simp only [tableGet, if_neg hj] at h ⊢
      exact List.mem_cons_of_mem _ (ih h)

/-- In a table of rising numbers each pair is the one its number reads. -/
theorem tableGet_of_mem {α : Type} (d : α) {t : List (Nat × α)} (ht : t.Pairwise (fun a b => a.1 < b.1))
    {x : Nat × α} (hx : x ∈ t) : tableGet d t x.1 = x.2 := by
  induction ht with
  | nil => simp at hx
  | @cons y rest hlt _ ih =>
    rcases List.mem_cons.mp hx with rfl | hrest
    · simp [tableGet]
    · have hne : y.1 ≠ x.1 := Nat.ne_of_lt (hlt x hrest)
      simpa [tableGet, hne] using ih hrest

/-- In a table of rising numbers the pair found has the lowest number of those that pass the test. -/
theorem find_lowest {α : Type} {t : List (Nat × α)} (ht : t.Pairwise (fun a b => a.1 < b.1)) {q : Nat × α → Bool}
    {x y : Nat × α} (hx : t.find? q = some x) (hy : y ∈ t) (hq : q y = true) : x.1 ≤ y.1 := by
  obtain ⟨-, pre, post, rfl, hpre⟩ := List.find?_eq_some_iff_append.mp hx
  obtain ⟨-, htail, -⟩ := List.pairwise_append.mp ht
  rcases List.mem_append.mp hy with hbefore | hafter
  · have hfails := hpre y hbefore
    simp [hq] at hfails
  · rcases List.mem_cons.mp hafter with rfl | hlater
    · exact Nat.le_refl _
    · exact Nat.le_of_lt ((List.pairwise_cons.mp htail).1 y hlater)

/-! ## FIND_EMPTY (R76) -/

/-- The test by which FIND_EMPTY examines a listed record from start upward (R76). -/
def passesFrom (start : Nat) (x : Nat × ContainerRec) : Bool := decide (start ≤ x.1) && isEmptyClosed x

theorem passesFrom_iff (start : Nat) (x : Nat × ContainerRec) :
    passesFrom start x = true ↔ start ≤ x.1 ∧ x.2.state = .closed ∧ x.2.live = 0 := by
  simp [passesFrom, isEmptyClosed]

theorem findEmptyWork_eq {e : QEntry} {start : Nat} (p : Port) (s : State) (hreq : e.request = .findEmpty start) :
    findEmptyWork p e s =
      (s, .done (.found ((s.mem.containers.find? (passesFrom start)).map (fun x => x.1)))) := by
  simp only [findEmptyWork, hreq]
  rfl

/-- A CLOSED container is listed, since an unlisted one reads as FREE. -/
theorem closed_listed {s : State} {c : Nat} (h : (containerGet s c).state = .closed) :
    (c, containerGet s c) ∈ s.mem.containers := by
  refine mem_of_tableGet_ne fun hzero => ?_
  rw [containerGet, hzero] at h
  exact absurd h (by decide)

/-- Settles O23: among the listed records, which are in rising numbers and hold every CLOSED container, the search finds
the lowest that passes. -/
theorem findEmptyReportsFirst : Obligations.FindEmptyReportsFirst := by
  intro s p e start htake hkind hreq hwf
  obtain ⟨-, hcontainers, -⟩ := (IndexMemory.wf_iff s.mem).mp hwf
  obtain ⟨hrising, -⟩ := (tableWf_iff _ _).mp hcontainers
  have hwork := findEmptyWork_eq p s hreq
  have hquiet : QuietWork (findEmptyWork p e s).1 s := by rw [hwork]; exact .rfl
  refine ⟨_, congrArg _ (containerRequest_answered htake hkind hquiet hwork), fun c hfound => ?_,
    fun hnone d hd hempty => ?_⟩
  · obtain ⟨x, hx, rfl⟩ := Option.map_eq_some_iff.mp hfound
    have hread : containerGet s x.1 = x.2 := tableGet_of_mem _ hrising (List.mem_of_find?_eq_some hx)
    obtain ⟨hstart, hclosed, hlive⟩ := (passesFrom_iff start x).mp (List.find?_some hx)
    rw [hread]
    refine ⟨hstart, hclosed, hlive, fun d hd hlt hempty => ?_⟩
    have hle : x.1 ≤ d :=
      find_lowest hrising hx (closed_listed hempty.1) ((passesFrom_iff start _).mpr ⟨hd, hempty⟩)
    exact absurd hlt (Nat.not_lt.mpr hle)
  · have hpasses := List.find?_eq_none.mp (Option.map_eq_none_iff.mp hnone) _ (closed_listed hempty.1)
    exact hpasses ((passesFrom_iff start _).mpr ⟨hd, hempty⟩)

end Sys2Proof.Machine
end

section
/-! The invariant of the port units over every command (R129, R143, R145, R147, R170). -/

namespace Sys2Proof.Machine

/-! ## Frames taken off a link -/

/-- The command by which a frame of a kind arrives at a port and is taken by its block where it can be. -/
def requestCommand (k : Kind) (p : Port) (f : RequestFrame) : Instr :=
  match k with
  | .probe | .lookup | .ref | .move | .release | .drop | .restore | .readSlot => arrivalCommand k p f
  | k => (blockCommand k p (.whole f)).getD .recovery

theorem execRequest_eq (k : Kind) (p : Port) (f : RequestFrame) (s : State) :
    execRequest k p f s = exec (requestCommand k p f) s := by
  cases k <;> rfl

/-- The command takes a frame off a link as its symbols come. -/
def isReception : Instr → Bool
  | .badFrame _ _ | .frameDiscardedListFull _ _ => true
  | _ => false

theorem requestCommand_not_reception (k : Kind) (p : Port) (f : RequestFrame) :
    isReception (requestCommand k p f) = false := by
  cases k <;> rfl

/-- What a frame taken off a link can come to: nothing, its symbols seen, a bad frame discarded, an unknown kind code
tested, or the command of its request (R131, R134, R143, R177, R180). -/
theorem receiveFrame_cases (p : Port) (r : Reception) (s : State) :
    receiveFrame p r s = .next s ∨ receiveFrame p r s = .next (seeSymbols p s) ∨
      receiveFrame p r s = .next (discardBad p s) ∨
      (∃ code f, receiveFrame p r s = .next (unknownRequest p code f s)) ∨
      ∃ k f, receiveFrame p r s = exec (requestCommand k p f) s := by
  unfold receiveFrame
  split
  · exact .inl rfl
  · split
    · exact .inr (.inl rfl)
    · split
      · exact .inr (.inr (.inl rfl))
      · split
        · split
          · next k _ => exact .inr (.inr (.inr (.inr ⟨k, _, execRequest_eq k p _ s⟩)))
          · exact .inr (.inr (.inr (.inl ⟨_, _, rfl⟩)))
        · exact .inl rfl

/-! ## Every command ends in a next state of a kind -/

/-- The command's result is a next state of which something holds. -/
def Ends (P : State → Prop) (r : Result) : Prop := ∃ t, r = .next t ∧ P t

theorem Ends.next {P : State → Prop} {t : State} (h : P t) : Ends P (.next t) := ⟨t, rfl, h⟩

theorem Ends.of_eq {P : State → Prop} {r : Result} (h : Ends P r) {t : State} (ht : r = .next t) : P t := by
  obtain ⟨u, hu, hP⟩ := h
  cases hu.symm.trans ht
  exact hP

/-- A command of a powered part: what its meaning keeps, and what holds of the state as it is. -/
theorem Ends.powered {P : State → Prop} {s : State} {g : State → State} (hs : P s) (hg : P (g s)) :
    Ends P (.next (whenPowered s g)) := by
  refine .next ?_
  unfold whenPowered
  split
  · exact hg
  · exact hs

/-- What the commands other than receptions end in, and what seeing, discarding and refusing a frame give, holds of
receptions as well. -/
theorem Ends.reception {P : State → Prop} {s : State} {p : Port} (r : Reception) (hs : P s) (hsee : P (seeSymbols p s))
    (hbad : P (discardBad p s)) (hunknown : ∀ code f, P (unknownRequest p code f s))
    (hrequest : ∀ c, isReception c = false → Ends P (exec c s)) : Ends P (receiveFrame p r s) := by
  rcases receiveFrame_cases p r s with h | h | h | ⟨code, f, h⟩ | ⟨k, f, h⟩ <;> rw [h]
  · exact .next hs
  · exact .next hsee
  · exact .next hbad
  · exact .next (hunknown code f)
  · exact hrequest _ (requestCommand_not_reception k p f)

/-! ## The port units -/

theorem unknownRequest_portsOk {s : State} (p : Port) (code : Byte) (f : RequestFrame) (h : PortsOk s) :
    PortsOk (unknownRequest p code f s) := arrive_portsOk p code none f h

theorem discardBad_portsOk {s : State} (p : Port) (h : PortsOk s) : PortsOk (discardBad p s) :=
  raiseTo_portsOk _ _ (countPort_portsOk _ _ _ (seeSymbols_portsOk p h))

theorem takeCompletion_portsOk {s : State} (p : Port) (h : PortsOk s) : PortsOk (takeCompletion p s) := h

theorem saveClock_portsOk {s : State} (h : PortsOk s) : PortsOk (saveClock s) := h

theorem advanceClock_portsOk {s : State} (h : PortsOk s) : PortsOk (advanceClock s) :=
  (doWhen_portsOk (b := clockSaveDue s) h fun _ => saveClock_portsOk).of_ports rfl

section
variable {s : State} (h : PortsOk s)
include h

theorem request_ends_portsOk (k : Kind) (act : Port → QEntry → State → State) (p : Port) (r : RequestStep)
    (hact : ∀ e s, PortsOk s → PortsOk (act p e s)) :
    Ends PortsOk (.next (whenPowered s (runRequest k act p r))) :=
  .powered h (runRequest_portsOk k p r hact h)

theorem answered_ends_portsOk (k : Kind) (work : Port → QEntry → State → State × Answer) (p : Port) (r : RequestStep)
    (hwork : ∀ e s, PortsOk s → PortsOk (work p e s).1) :
    Ends PortsOk (.next (whenPowered s (runRequest k (answering work) p r))) :=
  request_ends_portsOk h k _ p r (answering_portsOk hwork)

theorem container_ends_portsOk (k : Kind) (work : Port → QEntry → State → State × Answer) (p : Port) (r : ContainerStep)
    (hwork : ∀ e s, PortsOk s → PortsOk (work p e s).1) :
    Ends PortsOk (.next (whenPowered s (runContainer k work p r))) :=
  .powered h (runContainer_portsOk k p r hwork h)

theorem arrival_ends_portsOk (k : Kind) (p : Port) (f : RequestFrame) :
    Ends PortsOk (.next (whenPowered s fun s => (arrive p (kindCode k) (some k) f s).1)) :=
  .powered h (arrive_portsOk p _ _ f h)

theorem turn_ends_portsOk (k : Kind) (core : QEntry → State → State × Answer) (p : Port) (st : OpStep)
    (hcore : ∀ e s, PortsOk s → PortsOk (core e s).1) :
    Ends PortsOk (.next (whenPowered s (runTurn (grantPort p k) (finishPort core p) (isPortTurn p k) st))) :=
  .powered h (runTurn_portsOk st (grantPort_portsOk p k h) (fun t _ => finishPort_portsOk p t hcore) h)

/-- Every command but a reception keeps the port units. -/
theorem exec_portsOk_of_not_reception (c : Instr) (hc : isReception c = false) : Ends PortsOk (exec c s) := by
  cases c with
  | powerOn inputs => exact .next (startPart_portsOk inputs s)
  | recovery => exact .powered h (doWhen_portsOk h fun _ => recover_portsOk)
  | badFrame p r => cases hc
  | frameDiscardedListFull p r => cases hc
  | responseTransmitted p => exact .powered h (transmitNext_portsOk p h)
  | identify p r => exact answered_ends_portsOk h _ _ p r fun e _ => identifyWork_portsOk p e
  | portStatus p r => exact answered_ends_portsOk h _ _ p r fun e _ => portStatusWork_portsOk p e
  | indexStatus p r => exact answered_ends_portsOk h _ _ p r fun e _ => indexStatusWork_portsOk p e
  | containerStatus p r => exact container_ends_portsOk h _ _ p r fun e _ => containerStatusWork_portsOk p e
  | findEmpty p r => exact container_ends_portsOk h _ _ p r fun e _ => findEmptyWork_portsOk p e
  | events p r => exact answered_ends_portsOk h _ _ p r fun e _ => eventsWork_portsOk p e
  | setEventMask p r => exact answered_ends_portsOk h _ _ p r fun e _ => eventMaskWork_portsOk p e
  | stats p r => exact answered_ends_portsOk h _ _ p r fun e _ => statsWork_portsOk p e
  | getParameter p r => exact answered_ends_portsOk h _ _ p r fun e _ => getParameterWork_portsOk p e
  | setParameter p r => exact ⟨_, rfl, execSetParameter_portsOk p r h rfl⟩
  | lookup p f => exact arrival_ends_portsOk h _ p f
  | probe p f => exact arrival_ends_portsOk h _ p f
  | ref p f => exact arrival_ends_portsOk h _ p f
  | release p f => exact arrival_ends_portsOk h _ p f
  | move p f => exact arrival_ends_portsOk h _ p f
  | readSlot p f => exact arrival_ends_portsOk h _ p f
  | drop p f => exact arrival_ends_portsOk h _ p f
  | restore p f => exact arrival_ends_portsOk h _ p f
  | lookupOperation p st =>
    exact .powered h (runTurn_portsOk st (grantPort_portsOk p _ h) (fun t _ => finishLookup_portsOk p t) h)
  | probeOperation p st => exact turn_ends_portsOk h _ _ p st fun e _ => probeOf_portsOk e
  | refOperation p st => exact turn_ends_portsOk h _ _ p st fun e _ => refOf_portsOk e
  | releaseOperation p st => exact turn_ends_portsOk h _ _ p st fun e _ => releaseOf_portsOk p e
  | moveOperation p st => exact turn_ends_portsOk h _ _ p st fun e _ => moveOf_portsOk p e
  | readSlotOperation p st => exact turn_ends_portsOk h _ _ p st fun e _ => readSlotOf_portsOk e
  | dropOperation p st => exact turn_ends_portsOk h _ _ p st fun e _ => dropOf_portsOk e
  | restoreOperation p st => exact turn_ends_portsOk h _ _ p st fun e _ => restoreOf_portsOk e
  | commit p r => exact request_ends_portsOk h _ _ p r fun e _ => takeCommit_portsOk p e
  | commitEntryUpdate st =>
    exact .powered h (runTurn_portsOk st (grantClu_portsOk _ h) (fun t _ => finishClu_portsOk t) h)
  | abandon p r => exact request_ends_portsOk h _ _ p r fun e _ => takeAbandon_portsOk p e
  | freeingUpdate st =>
    exact .powered h (runTurn_portsOk st (grantClu_portsOk _ h) (fun t _ => finishClu_portsOk t) h)
  | claimExpiry n => exact .powered h (doWhen_portsOk h fun _ => expireClaim_portsOk n)
  | cancel p r => exact request_ends_portsOk h _ _ p r fun e _ => takeCancel_portsOk p e
  | openContainer p r => exact container_ends_portsOk h _ _ p r fun e _ => openContainerWork_portsOk p e
  | closeContainer p r => exact container_ends_portsOk h _ _ p r fun e _ => closeContainerWork_portsOk p e
  | reclaim p r => exact container_ends_portsOk h _ _ p r fun e _ => reclaimWork_portsOk p e
  | lookupBatch p r => exact request_ends_portsOk h _ _ p r fun e _ => takeBatch_portsOk p e
  | probeBatch p r => exact request_ends_portsOk h _ _ p r fun e _ => takeBatch_portsOk p e
  | releaseBatch p r => exact request_ends_portsOk h _ _ p r fun e _ => takeBatch_portsOk p e
  | batchItemOperation st =>
    exact .powered h (runTurn_portsOk st (grantBte_portsOk h) (fun t _ => finishItem_portsOk t) h)
  | itemAnswer =>
    refine .powered h ?_
    split
    · exact takeItemAnswer_portsOk _ _ _ _ (s := dropMessage s) h
    · exact h
  | batchCancellation =>
    refine .powered h ?_
    split
    · exact takeCancellation_portsOk _ _ _ _ (s := dropMessage s) h
    · exact h
  | withdrawalRequest => exact .powered h (doWhen_portsOk h fun _ => takeWithdrawal_portsOk)
  | withdrawalAnswer =>
    refine .powered h ?_
    split
    · exact takeWithdrawalAnswer_portsOk _ _ _ (s := dropMessage s) h
    · exact h
  | sweeperBucketOperation st =>
    exact .powered h (runTurn_portsOk st (grantSweeper_portsOk h) (fun t _ => finishSweep_portsOk t) h)
  | millisecondTick symbols => exact .powered h (tick_portsOk symbols h)
  | loss p =>
    exact .powered h (doWhen_portsOk h fun _ hs => judgeAhead_portsOk (judgeQuiet_portsOk p hs))
  | persistenceMet p =>
    exact .powered h (doWhen_portsOk h fun _ hs => judgeAhead_portsOk (judgeSteady_portsOk p hs))
  | firstSymbol p => exact .powered h (updPort_portsOk h p unitFirstSymbol_ok)
  | admitPort p r => exact answered_ends_portsOk h _ _ p r fun e _ => admitWork_portsOk p e
  | evict p r => exact answered_ends_portsOk h _ _ p r fun e _ => evictWork_portsOk p e
  | ctuTeardown p => exact .powered h (doWhen_portsOk h fun _ => takeCtuTeardown_portsOk p)
  | bteTeardown p => exact .powered h (doWhen_portsOk h fun _ => takeBteTeardown_portsOk p)
  | cluTeardown p => exact .powered h (doWhen_portsOk h fun _ => takeCluTeardown_portsOk p)
  | teardownCompletion =>
    refine .powered h ?_
    split
    · exact takeCompletion_portsOk _ (s := dropMessage s) h
    · exact h
  | setNamespace p r => exact answered_ends_portsOk h _ _ p r fun e _ => setNamespaceWork_portsOk p e
  | setPort p r => exact answered_ends_portsOk h _ _ p r fun e _ => setPortWork_portsOk p e
  | snapshot p r => exact answered_ends_portsOk h _ _ p r fun e _ => snapshotWork_portsOk p e
  | intervalEnd => exact .powered h (doWhen_portsOk h fun _ => takeSnapshot_portsOk)
  | indexClockAdvance => exact .powered h (doWhen_portsOk h fun _ => advanceClock_portsOk)
  | clockSave => exact .powered h (doWhen_portsOk h fun _ => saveClock_portsOk)
  | format p r => exact request_ends_portsOk h _ _ p r fun e _ => takeFormat_portsOk p e
  | formatAfterOperation =>
    refine .powered h ?_
    split
    · exact takeFormatNow_portsOk _ _ h
    · exact h
  | formatWalk =>
    refine .powered h ?_
    split
    · exact doWhen_portsOk h fun _ => formatWalk_portsOk _
    · exact h
  | restart p r => exact request_ends_portsOk h _ _ p r fun e _ => takeRestart_portsOk p e
  | restartReset inputs w => exact .powered h (doWhen_portsOk h fun _ _ => restartPart_portsOk inputs w)
  | silenceEnd => exact .powered h (doWhen_portsOk h fun _ hs => hs)
  | powerLoss w => exact .powered h (losePower_portsOk w)
  | unknownKindCode p code f => exact .powered h (doWhen_portsOk h fun _ => unknownRequest_portsOk p code f)

theorem exec_portsOk (c : Instr) : Ends PortsOk (exec c s) := by
  have hreception : ∀ p r, Ends PortsOk (receiveFrame p r s) := fun p r =>
    .reception r h (seeSymbols_portsOk p h) (discardBad_portsOk p h) (fun code f => unknownRequest_portsOk p code f h)
      (exec_portsOk_of_not_reception h)
  cases hc : isReception c with
  | false => exact exec_portsOk_of_not_reception h c hc
  | true =>
    cases c with
    | badFrame p r => exact hreception p r
    | frameDiscardedListFull p r => exact hreception p r
    | _ => cases hc

end

/-- A step ends in what its command ends in, on the state with the queue's rest; an empty queue is idled over. -/
theorem step_ends {P : State → Prop} {s t : State} (hidle : P s)
    (hexec : ∀ c rest, s.pending = c :: rest → Ends P (exec c (s.withPending rest))) (h : step s = .next t) : P t := by
  unfold step at h
  split at h
  · cases h
    exact hidle
  · next c rest hp => exact (hexec c rest hp).of_eq h

/-- Settles O58: every command keeps the port units, whatever the queue behind it. -/
theorem stepKeepsPortUnits : Obligations.StepKeepsPortUnits := fun _ _ h hstep =>
  step_ends h (fun c rest _ => exec_portsOk (h.of_ports (withPending_frame _ rest).2.1) c) hstep

end Sys2Proof.Machine
end

section
/-! What every command keeps beside the port units: the commands queued behind it, the canonical form of the tables, and
the range of the counters (R160, R161). -/

namespace Sys2Proof.Machine

/-! ## What one state keeps of another -/

/-- A state keeps of another the queue of commands, the tables' canonical form and the counters' range. -/
structure Keeps (t s : State) : Prop where
  pending : t.pending = s.pending
  tables : TablesOk s → TablesOk t
  counters : CountersOk s → CountersOk t

theorem Keeps.rfl {s : State} : Keeps s s := ⟨Eq.refl _, id, id⟩

theorem Keeps.trans {a b c : State} (h : Keeps a b) (k : Keeps b c) : Keeps a c :=
  ⟨h.pending.trans k.pending, h.tables ∘ k.tables, h.counters ∘ k.counters⟩

/-- The counters in their range depend on the statistics unit alone. -/
theorem CountersOk.of_stu {s t : State} (h : CountersOk s) (e : t.stu = s.stu) : CountersOk t := by
  unfold CountersOk
  rw [e]
  exact h

/-- A change of tables that leaves the queue and the statistics unit as they are. -/
theorem Keeps.of_tables {s t : State} (hp : t.pending = s.pending) (ht : TablesOk s → TablesOk t)
    (hs : t.stu = s.stu) : Keeps t s := ⟨hp, ht, fun h => h.of_stu hs⟩

/-- A state that keeps every table of another, and its queue. -/
theorem Keeps.of_same {s t : State} (hp : t.pending = s.pending) (hm : t.mem = s.mem)
    (hc : t.clu.claims = s.clu.claims) (hb : t.bte.contexts = s.bte.contexts) (hn : t.nst = s.nst)
    (hs : t.stu = s.stu) : Keeps t s :=
  .of_tables hp (fun h => h.of_same hm hc hb hn (by rw [hs]) (by rw [hs])) hs

/-- What leaves every table and the queue as an earlier state kept them keeps them as well. -/
theorem Keeps.same {a b c : State} (h : Keeps b c) (hp : a.pending = b.pending) (hm : a.mem = b.mem)
    (hc : a.clu.claims = b.clu.claims) (hb : a.bte.contexts = b.bte.contexts) (hn : a.nst = b.nst)
    (hs : a.stu = b.stu) : Keeps a c := (Keeps.of_same hp hm hc hb hn hs).trans h

/-- Something done for each element of a list. -/
theorem foldl_keeps {α : Type} {f : State → α → State} (hf : ∀ s a, Keeps (f s a) s) (l : List α) (s : State) :
    Keeps (l.foldl f s) s := by
  induction l generalizing s with
  | nil => exact .rfl
  | cons a l ih => exact (ih (f s a)).trans (hf s a)

theorem doWhen_keeps {g : State → State} (b : Bool) {s : State} (hg : Keeps (g s) s) : Keeps (doWhen b g s) s := by
  cases b with
  | false => exact .rfl
  | true => exact hg

/-! ## Port units and notices -/

theorem updPort_keeps (p : Port) (g : PortUnit → PortUnit) (s : State) : Keeps (updPort p g s) s :=
  .of_same rfl rfl rfl rfl rfl rfl

theorem updPorts_keeps (g : Port → PortUnit → PortUnit) (s : State) : Keeps (updPorts g s) s :=
  .of_same rfl rfl rfl rfl rfl rfl

theorem raiseTo_keeps (p : Port) (k : EventKind) (s : State) : Keeps (raiseTo p k s) s := updPort_keeps _ _ _

theorem raiseAll_keeps (k : EventKind) (s : State) : Keeps (raiseAll k s) s := updPorts_keeps _ _

theorem evalOccupancy_keeps (s : State) : Keeps (evalOccupancy s) s :=
  .of_same (by simp) (by simp) (by simp) (by simp) (by simp) (by simp)

theorem setOccupancy_keeps (n : Nat) (s : State) : Keeps (setOccupancy n s) s :=
  .of_same (by simp) (by simp) (by simp) (by simp) (by simp) (by simp)

theorem evalContainersLow_keeps (s : State) : Keeps (evalContainersLow s) s :=
  .of_same (by simp) (by simp) (by simp) (by simp) (by simp) (by simp)

theorem updEntry_keeps (p : Port) (tag : Tag) (g : QEntry → QEntry) (s : State) : Keeps (updEntry p tag g s) s :=
  updPort_keeps _ _ _

theorem markTaken_keeps (p : Port) (tag : Tag) (s : State) : Keeps (markTaken p tag s) s :=
  updEntry_keeps _ _ _ _

theorem respond_keeps (p : Port) (r : Response) (s : State) : Keeps (respond p r s) s := updPort_keeps _ _ _

theorem seeSymbols_keeps (p : Port) (s : State) : Keeps (seeSymbols p s) s := updPort_keeps _ _ _

theorem answer_keeps (p : Port) (tag : Tag) (mark : Session) (a : Answer) (s : State) :
    Keeps (answer p tag mark a s) s :=
  .of_same (by simp) (by simp) (by simp) (by simp) (by simp) (by simp)

theorem answerEntry_keeps (p : Port) (e : QEntry) (a : Answer) (s : State) : Keeps (answerEntry p e a s) s :=
  answer_keeps _ _ _ _ _

theorem enterOnline_keeps (p : Port) (s : State) : Keeps (enterOnline p s) s :=
  .of_same rfl rfl rfl rfl rfl rfl

theorem evalAdmission_keeps (p : Port) (s : State) : Keeps (evalAdmission p s) s :=
  .of_same (by simp) (by simp) (by simp) (by simp) (by simp) (by simp)

theorem evalAdmissions_keeps (s : State) : Keeps (evalAdmissions s) s :=
  foldl_keeps (fun s p => evalAdmission_keeps p s) _ s

theorem takeLoss_keeps (p : Port) (s : State) : Keeps (takeLoss p s) s :=
  .of_same (by simp) (by simp) (by simp) (by simp) (by simp) (by simp)

theorem takeEviction_keeps (p : Port) (s : State) : Keeps (takeEviction p s) s :=
  .of_same (by simp) (by simp) (by simp) (by simp) (by simp) (by simp)

theorem sendBte_keeps (m : BteMessage) (s : State) : Keeps (sendBte m s) s := .of_same rfl rfl rfl rfl rfl rfl

theorem endTurn_keeps (s : State) : Keeps (endTurn s) s := .of_same rfl rfl rfl rfl rfl rfl

theorem grantTurn_keeps (r : Requester) (t : Turn) (s : State) : Keeps (grantTurn r t s) s :=
  .of_same rfl rfl rfl rfl rfl rfl

theorem presentItem_keeps (s : State) : Keeps (presentItem s) s := .of_tables (by simp) presentItem_tablesOk (by simp)

theorem answerWaiter_keeps (w : Waiter) (o : IndexOutcome) (s : State) : Keeps (answerWaiter w o s) s :=
  .of_tables (by simp) (answerWaiter_tablesOk w o) (by simp)

/-! ## Counters -/

theorem tableGet_counter_le {t : List (Nat × Counter)} (h : ∀ e ∈ t, e.2.value ≤ Config.counterMax) (k : Nat) :
    (tableGet Counter.zero t k).value ≤ Config.counterMax := by
  by_cases hk : tableGet Counter.zero t k = Counter.zero
  · rw [hk]
    exact Nat.zero_le _
  · exact h _ (mem_of_tableGet_ne hk)

/-- A table with one record written holds that record and records of the table before. -/
theorem mem_tableSet {α : Type} [DecidableEq α] {d : α} {t : List (Nat × α)} {k : Nat} {v : α} {e : Nat × α}
    (h : e ∈ tableSet d t k v) : e = (k, v) ∨ e ∈ t := by
  unfold tableSet tableErase at h
  split at h
  · exact .inr (List.mem_of_mem_filter h)
  · exact ((tableInsert_mem _ _ _ _).mp h).imp_right List.mem_of_mem_filter

/-- A count keeps every counter within 2^48 - 1 (R161). -/
theorem countOne_countersOk {s : State} (k n : Nat) (h : CountersOk s) : CountersOk (countOne k n s) := by
  obtain ⟨hlive, hsnap⟩ := h
  have hset : ∀ e ∈ tableSet Counter.zero s.stu.live k (counterAdd (tableGet Counter.zero s.stu.live k) n),
      e.2.value ≤ Config.counterMax := by
    intro e he
    rcases mem_tableSet he with rfl | hold
    · exact counterAdd_le _ _
    · exact hlive e hold
  unfold countOne
  dsimp only
  split
  · exact ⟨hset, hsnap⟩
  · exact ⟨hset, hsnap⟩

theorem countOne_keeps (k n : Nat) (s : State) : Keeps (countOne k n s) s :=
  ⟨by simp, countOne_tablesOk k n, countOne_countersOk k n⟩

theorem countPort_keeps (p : Port) (c : PortCounter) (n : Nat) (s : State) : Keeps (countPort p c n s) s :=
  countOne_keeps _ _ _

theorem countNs_keeps (ns : Nat) (c : NsCounter) (n : Nat) (s : State) : Keeps (countNs ns c n s) s := by
  unfold countNs
  split
  · exact countOne_keeps _ _ _
  · exact .rfl

/-- A snapshot takes counters in range, and the live ones start from 0 (R162). -/
theorem takeSnapshot_keeps (s : State) : Keeps (takeSnapshot s) s :=
  ⟨rfl, takeSnapshot_tablesOk, fun h => ⟨fun _ he => absurd he List.not_mem_nil, h.1⟩⟩

/-! ## Slots, claims, containers and contexts -/

theorem slotPut_keeps (n : Nat) (im : SlotImage) (s : State) : Keeps (slotPut n im s) s :=
  .of_tables rfl (slotPut_tablesOk n im) rfl

theorem containerPut_keeps (c : Nat) (r : ContainerRec) (s : State) : Keeps (containerPut c r s) s :=
  .of_tables rfl (containerPut_tablesOk c r) rfl

theorem claimPut_keeps (n : Nat) (r : ClaimRec) (s : State) : Keeps (claimPut n r s) s :=
  .of_tables rfl (claimPut_tablesOk n r) rfl

theorem contextPut_keeps (n : Nat) (c : Context) (s : State) : Keeps (contextPut n c s) s :=
  .of_tables rfl (contextPut_tablesOk n c) rfl

theorem removeWaiters_keeps (gone : Waiter → Bool) (s : State) : Keeps (removeWaiters gone s) s :=
  .of_tables rfl (removeWaiters_tablesOk gone) rfl

/-- Index memory changed by what keeps its canonical form. -/
theorem updMem_keeps {g : IndexMemory → IndexMemory} (hg : ∀ m, m.wf = true → (g m).wf = true) (s : State) :
    Keeps (updMem g s) s := .of_tables rfl (updMem_tablesOk hg) rfl

theorem parkWaiter_keeps (n : Nat) (w : Waiter) (s : State) : Keeps (parkWaiter n w s) s := claimPut_keeps _ _ _

theorem placeChunk_keeps (c offset length : Nat) (s : State) : Keeps (placeChunk c offset length s) s :=
  containerPut_keeps _ _ _

theorem departEntry_keeps (c length : Nat) (s : State) : Keeps (departEntry c length s) s := containerPut_keeps _ _ _

theorem departLocation_keeps (l : Location) (s : State) : Keeps (departLocation l s) s := departEntry_keeps _ _ _

theorem transferEntry_keeps (a b : Location) (s : State) : Keeps (transferEntry a b s) s :=
  (departLocation_keeps _ _).trans (containerPut_keeps _ _ _)

theorem verifySlot_keeps (n : Nat) (s : State) : Keeps (verifySlot n s) s :=
  .of_tables (by simp) (verifySlot_tablesOk n) (by simp)

theorem searchFrom_keeps (fp : Fingerprint) (ns : List Nat) (s : State) : Keeps (searchFrom fp ns s).1 s :=
  .of_tables (by simp) (searchFrom_tablesOk fp ns) (by simp)

theorem searchIndex_keeps (fp : Fingerprint) (s : State) : Keeps (searchIndex fp s).1 s := searchFrom_keeps _ _ _

theorem handOver_keeps (n : Nat) (w : Waiter) (rest : List Waiter) (s : State) : Keeps (handOver n w rest s) s :=
  (answerWaiter_keeps _ _ _).trans ((countNs_keeps _ _ _ _).trans (claimPut_keeps _ _ _))

theorem closeClaim_keeps (n : Nat) (s : State) : Keeps (closeClaim n s) s := .of_tables rfl (closeClaim_tablesOk n) rfl

theorem releaseClaim_keeps (n : Nat) (s : State) : Keeps (releaseClaim n s) s := by
  unfold releaseClaim
  split
  · exact closeClaim_keeps _ _
  · exact handOver_keeps _ _ _ _

theorem expireClaim_keeps (n : Nat) (s : State) : Keeps (expireClaim n s) s := by
  unfold expireClaim
  split
  · exact releaseClaim_keeps _ _
  · exact (releaseClaim_keeps _ _).trans ((countPort_keeps _ _ _ _).trans (raiseTo_keeps _ _ _))

/-! ## Arrival, requests and turns -/

theorem tryAdmit_keeps (p : Port) (code : Byte) (k : Option Kind) (f : RequestFrame) (s : State) :
    Keeps (tryAdmit p code k f s).1 s := by
  unfold tryAdmit
  dsimp only
  split
  · exact (respond_keeps _ _ _).trans (countPort_keeps _ _ _ _)
  · split
    · exact respond_keeps _ _ _
    · split
      · exact respond_keeps _ _ _
      · exact .of_same rfl rfl rfl rfl rfl rfl

theorem arrive_keeps (p : Port) (code : Byte) (k : Option Kind) (f : RequestFrame) (s : State) :
    Keeps (arrive p code k f s).1 s := by
  unfold arrive
  split
  · exact .rfl
  · split
    · exact seeSymbols_keeps _ _
    · exact (tryAdmit_keeps _ _ _ _ _).trans ((countPort_keeps _ _ _ _).trans (seeSymbols_keeps _ _))

theorem takeRequest_keeps (k : Kind) {act : Port → QEntry → State → State} (p : Port) (tag : Tag)
    (hact : ∀ e s, Keeps (act p e s) s) (s : State) : Keeps (takeRequest k act p tag s) s := by
  unfold takeRequest
  split
  · exact .rfl
  · split
    · exact answerEntry_keeps _ _ _ _
    · exact hact _ _

theorem runRequest_keeps (k : Kind) {act : Port → QEntry → State → State} (p : Port) (r : RequestStep)
    (hact : ∀ e s, Keeps (act p e s) s) (s : State) : Keeps (runRequest k act p r s) s := by
  cases r with
  | whole f =>
    simp only [runRequest]
    split
    · exact (takeRequest_keeps k p _ hact _).trans (arrive_keeps _ _ _ _ _)
    · exact arrive_keeps _ _ _ _ _
  | arrive f => exact arrive_keeps _ _ _ _ _
  | take tag => exact takeRequest_keeps k p tag hact s

theorem fixOutcome_keeps {work : Port → QEntry → State → State × Answer} {p : Port}
    (hwork : ∀ e s, Keeps (work p e s).1 s) (e : QEntry) (s : State) : Keeps (fixOutcome work p e s) s :=
  (hwork e s).same rfl rfl rfl rfl rfl rfl

theorem handOutcome_keeps (k : Kind) (p : Port) (tag : Tag) (s : State) : Keeps (handOutcome k p tag s) s :=
  .of_tables (by simp) (handOutcome_tablesOk k p tag) (by simp)

theorem answering_keeps {work : Port → QEntry → State → State × Answer} {p : Port}
    (hwork : ∀ e s, Keeps (work p e s).1 s) (e : QEntry) (s : State) : Keeps (answering work p e s) s :=
  (answerEntry_keeps _ _ _ _).trans (hwork e s)

theorem runContainer_keeps (k : Kind) {work : Port → QEntry → State → State × Answer} (p : Port) (r : ContainerStep)
    (hwork : ∀ e s, Keeps (work p e s).1 s) (s : State) : Keeps (runContainer k work p r s) s := by
  cases r with
  | request r => exact runRequest_keeps k p r (answering_keeps hwork) s
  | fix tag => exact takeRequest_keeps k p tag (fixOutcome_keeps hwork) s
  | hand tag => exact handOutcome_keeps k p tag s

theorem runTurn_keeps {s : State} {grant : State → Option (State × Turn)} {finish : Turn → State → State}
    {mine : Turn → Bool} (st : OpStep) (hg : ∀ g, grant s = some g → Keeps g.1 s)
    (hf : ∀ t s, Keeps (finish t s) s) : Keeps (runTurn grant finish mine st s) s := by
  cases st with
  | grant =>
    simp only [runTurn]
    split
    · next g hs => exact hg g hs
    · exact .rfl
  | finish =>
    simp only [runTurn]
    split
    · split
      · exact hf _ _
      · exact .rfl
    · exact .rfl
  | whole =>
    simp only [runTurn]
    split
    · next g hs => exact (hf _ _).trans (hg g hs)
    · exact .rfl

/-! ## Index family -/

theorem addReferences_keeps (slot : Nat) (st : EntryState) (n : Nat) (s : State) :
    Keeps (addReferences slot st n s).1 s := by
  unfold addReferences
  split
  · exact slotPut_keeps _ _ _
  · exact slotPut_keeps _ _ _
  · exact .rfl

theorem countHit_keeps (ns : Nat) (l : Location) (s : State) : Keeps (countHit ns l s) s :=
  (countNs_keeps _ _ _ _).trans ((countNs_keeps _ _ _ _).trans (countNs_keeps _ _ _ _))

theorem requestWaiter_keeps (w : Waiter) (c : BitVec 16) (s : State) : Keeps (requestWaiter w c s).1 s := by
  unfold requestWaiter
  split
  · exact .rfl
  · split
    · exact (countNs_keeps _ _ _ _).trans (parkWaiter_keeps _ _ _)
    · exact .rfl

theorem insertEntry_keeps (w : Waiter) (fp : Fingerprint) (s : State) : Keeps (insertEntry w fp s).1 s := by
  unfold insertEntry
  split
  · exact .rfl
  · split
    · exact .rfl
    · exact (countNs_keeps _ _ _ _).trans ((countNs_keeps _ _ _ _).trans
        ((setOccupancy_keeps _ _).trans ((slotPut_keeps _ _ _).trans (claimPut_keeps _ _ _))))

theorem lookupMatch_keeps (w : Waiter) (wait : Bool) (slot : Nat) (s : State) :
    Keeps (lookupMatch w wait slot s).1 s := by
  have hit : ∀ st, Keeps (countHit w.ns (slotGet s slot).loc (addReferences slot st 1 s).1) s := fun st =>
    (countHit_keeps _ _ _).trans (addReferences_keeps _ _ _ _)
  unfold lookupMatch
  dsimp only
  split
  · split
    · exact requestWaiter_keeps _ _ _
    · exact .rfl
  · exact hit _
  · exact hit _
  · exact hit _
  · exact .rfl

theorem lookupCore_keeps (w : Waiter) (fp : Fingerprint) (wait : Bool) (s : State) :
    Keeps (lookupCore w fp wait s).1 s := by
  unfold lookupCore
  split
  · exact .rfl
  · dsimp only
    split
    · exact (lookupMatch_keeps _ _ _ _).trans (searchIndex_keeps _ _)
    · exact (insertEntry_keeps _ _ _).trans (searchIndex_keeps _ _)

theorem probeCore_keeps (fp : Fingerprint) (s : State) : Keeps (probeCore fp s).1 s := by
  unfold probeCore
  split
  · exact .rfl
  · dsimp only
    split <;> exact searchIndex_keeps _ _

theorem refCore_keeps (fp : Fingerprint) (n : Nat) (s : State) : Keeps (refCore fp n s).1 s := by
  have hadd : ∀ slot st, Keeps (addReferences slot st n (searchIndex fp s).1).1 s := fun slot st =>
    (addReferences_keeps _ _ _ _).trans (searchIndex_keeps _ _)
  unfold refCore
  split
  · exact .rfl
  · dsimp only
    split
    · exact searchIndex_keeps _ _
    · split
      · exact hadd _ _
      · exact hadd _ _
      · exact hadd _ _
      · exact searchIndex_keeps _ _
      · exact searchIndex_keeps _ _

theorem releaseStored_keeps (p : Port) (ns slot n : Nat) (s : State) : Keeps (releaseStored p ns slot n s).1 s := by
  unfold releaseStored
  dsimp only
  split
  · exact raiseTo_keeps _ _ _
  · dsimp only
    split
    · exact (countNs_keeps _ _ _ _).trans ((countNs_keeps _ _ _ _).trans (slotPut_keeps _ _ _))
    · exact (countNs_keeps _ _ _ _).trans (slotPut_keeps _ _ _)

theorem releaseCore_keeps (p : Port) (ns : Nat) (fp : Fingerprint) (n : Nat) (s : State) :
    Keeps (releaseCore p ns fp n s).1 s := by
  unfold releaseCore
  split
  · exact .rfl
  · dsimp only
    split
    · exact searchIndex_keeps _ _
    · split
      · exact (releaseStored_keeps _ _ _ _ _).trans (searchIndex_keeps _ _)
      · exact (raiseTo_keeps _ _ _).trans (searchIndex_keeps _ _)
      · exact searchIndex_keeps _ _
      · exact searchIndex_keeps _ _
      · exact searchIndex_keeps _ _

theorem moveEntry_keeps (p : Port) (slot src dst offset length : Nat) (s : State) :
    Keeps (moveEntry p slot src dst offset length s).1 s := by
  unfold moveEntry
  split
  · exact .rfl
  · split
    · exact .rfl
    · exact (slotPut_keeps _ _ _).trans ((departEntry_keeps _ _ _).trans (placeChunk_keeps _ _ _ _))

theorem moveMatch_keeps (p : Port) (slot src dst offset length : Nat) (s : State) :
    Keeps (moveMatch p slot src dst offset length s).1 s := by
  unfold moveMatch
  dsimp only
  split
  · exact .rfl
  · exact .rfl
  · split
    · exact .rfl
    · split
      · exact .rfl
      · exact moveEntry_keeps _ _ _ _ _ _ _

theorem moveCore_keeps (p : Port) (fp : Fingerprint) (a b c d : Nat) (s : State) :
    Keeps (moveCore p fp a b c d s).1 s := by
  unfold moveCore
  split
  · exact .rfl
  · dsimp only
    split
    · exact searchIndex_keeps _ _
    · exact (moveMatch_keeps _ _ _ _ _ _ _).trans (searchIndex_keeps _ _)

theorem dropCore_keeps (slot : Nat) (s : State) : Keeps (dropCore slot s).1 s := by
  have hfree : Keeps (setOccupancy (s.ixc.occupancy - 1)
      (departLocation (slotGet s slot).loc (slotPut slot SlotImage.free s))) s :=
    (setOccupancy_keeps _ _).trans ((departLocation_keeps _ _).trans (slotPut_keeps _ _ _))
  unfold dropCore
  dsimp only
  split
  all_goals first | exact hfree | exact .rfl

theorem restoreCore_keeps (r : RestoreBody) (s : State) : Keeps (restoreCore r s).1 s := by
  have hentry : ∀ slot s, Keeps (restoreEntry r slot s).1 s := by
    intro slot s
    unfold restoreEntry
    split
    · exact .rfl
    · exact (slotPut_keeps _ _ _).trans (transferEntry_keeps _ _ _)
  unfold restoreCore
  dsimp only
  split
  · exact .rfl
  · split
    · exact .rfl
    · split
      · exact .rfl
      · split
        · exact searchFrom_keeps _ _ _
        · exact (hentry _ _).trans (searchFrom_keeps _ _ _)

/-! The turns of the port units -/

theorem finishPort_keeps {core : QEntry → State → State × Answer} (hcore : ∀ e s, Keeps (core e s).1 s) (p : Port)
    (t : Turn) (s : State) : Keeps (finishPort core p t s) s := by
  unfold finishPort
  split
  · exact (answerEntry_keeps _ _ _ _).trans ((endTurn_keeps _).trans (hcore _ _))
  · exact .rfl

theorem finishLookup_keeps (p : Port) (t : Turn) (s : State) : Keeps (finishLookup p t s) s := by
  unfold finishLookup
  split
  · split
    · dsimp only
      split
      · exact (answerEntry_keeps _ _ _ _).trans ((endTurn_keeps _).trans (lookupCore_keeps _ _ _ _))
      · split
        · exact (updEntry_keeps _ _ _ _).trans ((endTurn_keeps _).trans (lookupCore_keeps _ _ _ _))
        · exact (endTurn_keeps _).trans (lookupCore_keeps _ _ _ _)
    · exact endTurn_keeps _
  · exact .rfl

theorem grantPort_keeps (p : Port) (k : Kind) (s : State) (g : State × Turn) (h : grantPort p k s = some g) :
    Keeps g.1 s := by
  unfold grantPort at h
  split at h
  · cases h
  · split at h
    · cases h
      exact grantTurn_keeps _ _ _
    · cases h

theorem probeOf_keeps (e : QEntry) (s : State) : Keeps (probeOf e s).1 s := by
  unfold probeOf
  split
  · exact probeCore_keeps _ _
  · exact .rfl

theorem refOf_keeps (e : QEntry) (s : State) : Keeps (refOf e s).1 s := by
  unfold refOf
  split
  · exact refCore_keeps _ _ _
  · exact .rfl

theorem releaseOf_keeps (p : Port) (e : QEntry) (s : State) : Keeps (releaseOf p e s).1 s := by
  unfold releaseOf
  split
  · exact releaseCore_keeps _ _ _ _ _
  · exact .rfl

theorem moveOf_keeps (p : Port) (e : QEntry) (s : State) : Keeps (moveOf p e s).1 s := by
  unfold moveOf
  split
  · exact moveCore_keeps _ _ _ _ _ _ _
  · exact .rfl

theorem readSlotOf_keeps (e : QEntry) (s : State) : Keeps (readSlotOf e s).1 s := by
  unfold readSlotOf
  split <;> exact .rfl

theorem dropOf_keeps (e : QEntry) (s : State) : Keeps (dropOf e s).1 s := by
  unfold dropOf
  split
  · exact dropCore_keeps _ _
  · exact .rfl

theorem restoreOf_keeps (e : QEntry) (s : State) : Keeps (restoreOf e s).1 s := by
  unfold restoreOf
  split
  · exact restoreCore_keeps _ _
  · exact .rfl

/-! ## Claims -/

theorem grantClu_keeps (pick : Update → Option Turn) (s : State) (g : State × Turn) (h : grantClu pick s = some g) :
    Keeps g.1 s := by
  unfold grantClu at h
  split at h
  · cases h
  · split at h
    · cases h
    · split at h
      · cases h
        exact .of_same rfl rfl rfl rfl rfl rfl
      · cases h

theorem verifyClaimed_keeps (n : Nat) (s : State) : Keeps (verifyClaimed n s) s := by
  unfold verifyClaimed
  dsimp only
  split
  · exact verifySlot_keeps _ _
  · exact (slotPut_keeps _ _ _).trans (verifySlot_keeps _ _)

theorem freeClaimed_keeps (n : Nat) (s : State) : Keeps (freeClaimed n s) s := by
  unfold freeClaimed
  dsimp only
  split
  · exact (handOver_keeps _ _ _ _).trans (verifyClaimed_keeps _ _)
  · exact (claimPut_keeps _ _ _).trans
      ((setOccupancy_keeps _ _).trans ((slotPut_keeps _ _ _).trans (verifyClaimed_keeps _ _)))

theorem refuseCommit_keeps (n : Nat) (p : Port) (d : CommitDetails) (a : Answer) (s : State) :
    Keeps (refuseCommit n p d a s) s := by
  unfold refuseCommit
  dsimp only
  split
  · exact (expireClaim_keeps _ _).trans ((answer_keeps _ _ _ _ _).trans (claimPut_keeps _ _ _))
  · exact (answer_keeps _ _ _ _ _).trans (claimPut_keeps _ _ _)

theorem answerWaiters_keeps (l : Location) (ws : List Waiter) (s : State) : Keeps (answerWaiters l ws s) s :=
  foldl_keeps (fun _ _ => answerWaiter_keeps _ _ _) ws s

theorem countCommit_keeps (ns : Nat) (l : Location) (ws : List Waiter) (s : State) : Keeps (countCommit ns l ws s) s :=
  (foldl_keeps (fun _ _ => (countNs_keeps _ _ _ _).trans (countNs_keeps _ _ _ _)) ws _).trans
    ((countNs_keeps _ _ _ _).trans (countNs_keeps _ _ _ _))

theorem passCommit_keeps (n : Nat) (w : Waiter) (d : CommitDetails) (s : State) : Keeps (passCommit n w d s) s :=
  (answer_keeps _ _ _ _ _).trans ((answerWaiters_keeps _ _ _).trans ((countCommit_keeps _ _ _ _).trans
    ((claimPut_keeps _ _ _).trans ((slotPut_keeps _ _ _).trans (placeChunk_keeps _ _ _ _)))))

theorem commitClaim_keeps (n : Nat) (s : State) : Keeps (commitClaim n s) s := by
  unfold commitClaim
  dsimp only
  split
  · split
    · exact (refuseCommit_keeps _ _ _ _ _).trans (verifyClaimed_keeps _ _)
    · exact (passCommit_keeps _ _ _ _).trans (verifyClaimed_keeps _ _)
  · exact verifyClaimed_keeps _ _

theorem finishClu_keeps (t : Turn) (s : State) : Keeps (finishClu t s) s := by
  unfold finishClu
  split
  · exact (endTurn_keeps _).trans (commitClaim_keeps _ _)
  · exact (endTurn_keeps _).trans (freeClaimed_keeps _ _)
  · exact .rfl

theorem settleClaim_keeps (e : QEntry) (n : Nat) (l : Location) (s : State) : Keeps (settleClaim e n l s) s :=
  (claimPut_keeps n
    { claimGet s n with phase := .settling, details := some { loc := l, tag := e.tag, mark := e.mark } } s).same
    rfl rfl rfl rfl rfl rfl

theorem takeCommit_keeps (p : Port) (e : QEntry) (s : State) : Keeps (takeCommit p e s) s := by
  unfold takeCommit
  split
  · split
    · exact answerEntry_keeps _ _ _ _
    · split
      · exact answerEntry_keeps _ _ _ _
      · split
        · exact answerEntry_keeps _ _ _ _
        · exact (settleClaim_keeps _ _ _ _).trans (markTaken_keeps _ _ _)
  · exact .rfl

theorem takeAbandon_keeps (p : Port) (e : QEntry) (s : State) : Keeps (takeAbandon p e s) s := by
  unfold takeAbandon
  split
  · split
    · exact answerEntry_keeps _ _ _ _
    · split
      · exact answerEntry_keeps _ _ _ _
      · exact (answerEntry_keeps _ _ _ _).trans (releaseClaim_keeps _ _)
  · exact .rfl

theorem takeCancel_keeps (p : Port) (e : QEntry) (s : State) : Keeps (takeCancel p e s) s := by
  unfold takeCancel
  split
  · split
    · exact answerEntry_keeps _ _ _ _
    · split
      · exact (answerEntry_keeps _ _ _ _).trans ((answerEntry_keeps _ _ _ _).trans (removeWaiters_keeps _ _))
      · split
        · exact (sendBte_keeps _ _).trans (markTaken_keeps _ _ _)
        · exact answerEntry_keeps _ _ _ _
  · exact .rfl

theorem takeWithdrawal_keeps (s : State) : Keeps (takeWithdrawal s) s := by
  unfold takeWithdrawal
  split
  · exact .rfl
  · exact (sendBte_keeps _ _).trans ((removeWaiters_keeps _ _).trans (.of_same rfl rfl rfl rfl rfl rfl))

theorem giveUpClaim_keeps (p : Port) (n : Nat) (s : State) : Keeps (giveUpClaim p n s) s := by
  unfold giveUpClaim
  split
  · exact (releaseClaim_keeps _ _).trans (.of_same rfl rfl rfl rfl rfl rfl)
  · exact .rfl

theorem cluTeardownWork_keeps (p : Port) (s : State) : Keeps (cluTeardownWork p s) s :=
  (foldl_keeps (fun _ _ => giveUpClaim_keeps _ _ _) _ _).trans (removeWaiters_keeps _ _)

/-- A block's report of its part of a teardown, and the admission evaluated with it (R149, R152). -/
theorem report_keeps (p : Port) (g : PortUnit → PortUnit) (s : State) : Keeps (evalAdmission p (updPort p g s)) s :=
  (evalAdmission_keeps _ _).trans (updPort_keeps _ _ _)

theorem takeCluTeardown_keeps (p : Port) (s : State) : Keeps (takeCluTeardown p s) s :=
  (report_keeps _ _ _).trans ((sendBte_keeps _ _).trans (cluTeardownWork_keeps _ _))

/-! ## Batches -/

theorem grantBte_keeps (s : State) (g : State × Turn) (h : grantBte s = some g) : Keeps g.1 s := by
  unfold grantBte at h
  split at h
  · cases h
  · split at h
    · cases h
      exact .of_same rfl rfl rfl rfl rfl rfl
    · cases h

theorem takeBatch_keeps (p : Port) (e : QEntry) (s : State) : Keeps (takeBatch p e s) s := by
  unfold takeBatch
  split
  · split
    · exact answerEntry_keeps _ _ _ _
    · split
      · exact answerEntry_keeps _ _ _ _
      · exact (presentItem_keeps _).trans ((contextPut_keeps _ _ _).trans (updEntry_keeps _ _ _ _))
  · exact .rfl

theorem finishContext_keeps (n : Nat) (s : State) : Keeps (finishContext n s) s :=
  (contextPut_keeps _ _ _).trans (answer_keeps _ _ _ _ _)

theorem settleContext_keeps (n : Nat) (s : State) : Keeps (settleContext n s) s := by
  unfold settleContext
  dsimp only
  split
  · split
    · exact finishContext_keeps _ _
    · exact contextPut_keeps _ _ _
  · exact .rfl

theorem completeContext_keeps (n : Nat) (s : State) : Keeps (completeContext n s) s := by
  unfold completeContext
  dsimp only
  split
  · exact finishContext_keeps _ _
  · exact .rfl

theorem itemWork_keeps (n : Nat) (c : Context) (i : BatchItem) (s : State) : Keeps (itemWork n c i s).1 s := by
  unfold itemWork
  split
  · exact lookupCore_keeps _ _ _ _
  · exact probeCore_keeps _ _
  · exact releaseCore_keeps _ _ _ _ _

theorem takeItem_keeps (n : Nat) (s : State) : Keeps (takeItem n s) s := by
  unfold takeItem
  dsimp only
  split
  · exact .rfl
  · exact (settleContext_keeps _ _).trans ((contextPut_keeps _ _ _).trans (itemWork_keeps _ _ _ _))

theorem finishItem_keeps (t : Turn) (s : State) : Keeps (finishItem t s) s := by
  unfold finishItem
  split
  · exact (presentItem_keeps _).trans ((endTurn_keeps _).trans (takeItem_keeps _ _))
  · exact .rfl

theorem dropMessage_keeps (s : State) : Keeps (dropMessage s) s := .of_same rfl rfl rfl rfl rfl rfl

theorem takeItemAnswer_keeps (ctx idx : Nat) (p : Port) (o : IndexOutcome) (s : State) :
    Keeps (takeItemAnswer ctx idx p o s) s := by
  unfold takeItemAnswer
  dsimp only
  split
  · exact (presentItem_keeps _).trans ((completeContext_keeps _ _).trans (contextPut_keeps _ _ _))
  · exact .rfl

theorem takeWithdrawalAnswer_keeps (ctx : Nat) (p : Port) (idxs : List Nat) (s : State) :
    Keeps (takeWithdrawalAnswer ctx p idxs s) s := by
  unfold takeWithdrawalAnswer
  dsimp only
  split
  · exact (presentItem_keeps _).trans ((completeContext_keeps _ _).trans (contextPut_keeps _ _ _))
  · exact .rfl

/-- The contexts passed through a function keep their canonical form. -/
theorem TablesOk.mapContexts {s t : State} (g : Nat → Context → Context) (h : TablesOk s) (hm : t.mem = s.mem)
    (hc : t.clu.claims = s.clu.claims) (hb : t.bte.contexts = tableMap Context.zero g s.bte.contexts)
    (hn : t.nst = s.nst) (hs : t.stu = s.stu) : TablesOk t := by
  obtain ⟨hmem, hclaims, hcontexts, hnst, hlive, hsnap⟩ := h
  unfold TablesOk
  rw [hm, hc, hb, hn, hs]
  exact ⟨hmem, hclaims, tableMap_wf _ _ _ hcontexts, hnst, hlive, hsnap⟩

theorem takeCompletion_keeps (p : Port) (s : State) : Keeps (takeCompletion p s) s :=
  .of_tables rfl (fun h => h.mapContexts (fun _ c => if c.phase = .withheld p then Context.zero else c) rfl rfl rfl rfl
    rfl) rfl

theorem withdrawHeld_keeps (gone : Nat → Bool) (s : State) : Keeps (withdrawHeld gone s) s := by
  unfold withdrawHeld
  split
  · split
    · exact .of_same rfl rfl rfl rfl rfl rfl
    · exact .rfl
  · exact .rfl

theorem cancelContext_keeps (n : Nat) (s : State) : Keeps (cancelContext n s) s := by
  unfold cancelContext
  dsimp only
  split
  · exact (finishContext_keeps _ _).trans ((contextPut_keeps _ _ _).trans (withdrawHeld_keeps _ _))
  · exact ((contextPut_keeps n
        { cancelledContext (contextGet s n) with withdrawal := true, phase := .awaiting } _).trans
      (withdrawHeld_keeps (fun m => decide (m = n)) s)).same rfl rfl rfl rfl rfl rfl

theorem takeCancellation_keeps (p : Port) (target tag : Tag) (mark : Session) (s : State) :
    Keeps (takeCancellation p target tag mark s) s := by
  unfold takeCancellation
  split
  · exact answer_keeps _ _ _ _ _
  · split
    · exact answer_keeps _ _ _ _ _
    · exact (presentItem_keeps _).trans ((cancelContext_keeps _ _).trans (answer_keeps _ _ _ _ _))

theorem bteTeardownWork_keeps (p : Port) (s : State) : Keeps (bteTeardownWork p s) s := by
  have hwithheld : ∀ t : State, Keeps
      { t with
        bte :=
          { t.bte with
            contexts := tableMap Context.zero (fun _ c => if contextOf p c = true then withheldContext p else c)
              t.bte.contexts },
        clu := { t.clu with withdrawals := t.clu.withdrawals.filter (fun w => decide (w.2 ≠ p)) } } t := fun t =>
    .of_tables rfl (fun h => h.mapContexts (fun _ c => if contextOf p c = true then withheldContext p else c) rfl rfl
      rfl rfl rfl) rfl
  exact (presentItem_keeps _).trans ((hwithheld _).trans (withdrawHeld_keeps _ _))

theorem takeBteTeardown_keeps (p : Port) (s : State) : Keeps (takeBteTeardown p s) s :=
  (report_keeps _ _ _).trans (bteTeardownWork_keeps _ _)

/-! ## Containers -/

theorem openContainerWork_keeps (p : Port) (e : QEntry) (s : State) : Keeps (openContainerWork p e s).1 s := by
  unfold openContainerWork
  split
  · exact .rfl
  · split
    · exact .rfl
    · next c rest _ =>
      exact (evalContainersLow_keeps _).trans (Keeps.same
        (containerPut_keeps c { containerGet s c with state := .opened, owner := p, fill := 0 } s) rfl rfl rfl rfl rfl rfl)

theorem closeContainerWork_keeps (p : Port) (e : QEntry) (s : State) : Keeps (closeContainerWork p e s).1 s := by
  unfold closeContainerWork
  split
  · next c _ =>
    dsimp only
    split
    · exact .rfl
    · split
      · exact .rfl
      · exact (containerPut_keeps c { containerGet s c with state := .closed, owner := .p0 } s).same rfl rfl rfl rfl rfl rfl
  · exact .rfl

theorem reclaimWork_keeps (p : Port) (e : QEntry) (s : State) : Keeps (reclaimWork p e s).1 s := by
  unfold reclaimWork
  split
  · next c _ =>
    dsimp only
    split
    · exact .rfl
    · split
      · exact .rfl
      · exact (evalContainersLow_keeps _).trans (Keeps.same
          (containerPut_keeps c { containerGet s c with state := .free, fill := 0, bytes := 0 } s) rfl rfl rfl rfl rfl rfl)
  · exact .rfl

theorem findEmptyWork_keeps (p : Port) (e : QEntry) (s : State) : Keeps (findEmptyWork p e s).1 s := by
  unfold findEmptyWork
  split <;> exact .rfl

theorem containerStatusWork_keeps (p : Port) (e : QEntry) (s : State) : Keeps (containerStatusWork p e s).1 s := by
  unfold containerStatusWork
  split <;> exact .rfl

theorem memClosed_wf (p : Port) {m : IndexMemory} (h : m.wf = true) : (memClosed p m).wf = true := by
  unfold memClosed
  split
  · exact h
  · exact memContainers_wf h (tableMap_wf _ _ _ ((IndexMemory.wf_iff m).mp h).2.1)

theorem ctuTeardownWork_keeps (p : Port) (s : State) : Keeps (ctuTeardownWork p s) s := by
  refine .of_tables rfl (fun h => h.withMem ?_ rfl rfl rfl rfl rfl) rfl
  unfold ctuTeardownWork
  dsimp only
  split
  · exact memClosed_wf p h.1
  · exact h.1

theorem takeCtuTeardown_keeps (p : Port) (s : State) : Keeps (takeCtuTeardown p s) s :=
  (report_keeps _ _ _).trans (ctuTeardownWork_keeps _ _)

/-! ## Namespaces, ports, statistics and the link -/

theorem putNamespace_keeps (n : Nat) (r : NsRec) (s : State) : Keeps (putNamespace n r s) s := by
  refine .of_tables rfl (fun h => ?_) rfl
  obtain ⟨hmem, hclaims, hcontexts, hnst, hstu⟩ := h
  exact ⟨memSettings_wf hmem (tableSet_wf _ _ _ _ ((IndexMemory.wf_iff _).mp hmem).2.2.1), hclaims, hcontexts,
    tableSet_wf _ _ _ _ hnst, hstu⟩

theorem setNamespaceWork_keeps (p : Port) (e : QEntry) (s : State) : Keeps (setNamespaceWork p e s).1 s := by
  unfold setNamespaceWork
  split
  · dsimp only
    split
    · exact .rfl
    · exact putNamespace_keeps _ _ _
  · exact .rfl

/-- Settings written with the stored namespaces kept keep the canonical form. -/
theorem sameNamespaces_wf {v : Settings} {m : IndexMemory} (h : m.wf = true)
    (hv : v.namespaces = m.settings.namespaces) : (memSettings v m).wf = true :=
  memSettings_wf h (by rw [hv]; exact ((IndexMemory.wf_iff m).mp h).2.2.1)

theorem setOnePort_keeps (map : Option (BitVec 64)) (auto : Option Bool) (s : State) (q : Port) :
    Keeps (setOnePort map auto s q) s := by
  have hset : ∀ r, Keeps (updMem (fun m => memSettings { m.settings with ports := fourSet m.settings.ports q r } m)
      (updPort q (changedPort map auto) s)) s := fun r =>
    (updMem_keeps (fun _ h => by exact sameNamespaces_wf h rfl) _).trans (updPort_keeps _ _ _)
  unfold setOnePort
  dsimp only
  split
  · exact (evalAdmission_keeps _ _).trans (hset _)
  · exact hset _

theorem setPortWork_keeps (p : Port) (e : QEntry) (s : State) : Keeps (setPortWork p e s).1 s := by
  unfold setPortWork setPorts
  split
  · dsimp only
    split
    · exact .rfl
    · split
      · exact setOnePort_keeps _ _ _ _
      · exact foldl_keeps (fun _ _ => setOnePort_keeps _ _ _ _) _ _
  · exact .rfl

theorem admitWork_keeps (p : Port) (e : QEntry) (s : State) : Keeps (admitWork p e s).1 s := by
  unfold admitWork
  split
  · split
    · exact (enterOnline_keeps _ _).trans (updPort_keeps _ _ _)
    · exact .rfl
  · exact .rfl

theorem evictWork_keeps (p : Port) (e : QEntry) (s : State) : Keeps (evictWork p e s).1 s := by
  unfold evictWork
  split
  · split
    · exact .rfl
    · split
      · exact .rfl
      · exact takeEviction_keeps _ _
      · exact .of_same rfl rfl rfl rfl rfl rfl
  · exact .rfl

theorem judgeSteady_keeps (p : Port) (s : State) : Keeps (judgeSteady p s) s :=
  (doWhen_keeps _ (report_keeps p _ _)).trans (updPort_keeps _ _ _)

theorem judgeQuiet_keeps (p : Port) (s : State) : Keeps (judgeQuiet p s) s :=
  (doWhen_keeps _ (takeLoss_keeps p _)).trans (updPort_keeps _ _ _)

theorem judgeAhead_keeps {judge : State → State} (p : Port) {s : State} (h : Keeps (judge s) s) :
    Keeps (judgeAhead p judge s) s := (updPort_keeps _ _ _).trans h

theorem tickPort_keeps (symbols : Four Bool) (s : State) (p : Port) : Keeps (tickPort symbols s p) s := by
  unfold tickPort
  split
  · exact updPort_keeps _ _ _
  · unfold judgePort
    split
    · exact .rfl
    · split
      · exact judgeSteady_keeps _ _
      · exact judgeQuiet_keeps _ _

/-- The interval timer belongs to no counter. -/
theorem retimed_keeps (timer : Option Nat) (s : State) : Keeps { s with stu := { s.stu with timer := timer } } s :=
  ⟨rfl, id, id⟩

theorem tickTime_keeps (s : State) : Keeps (tickTime s) s := ⟨rfl, id, id⟩

theorem tick_keeps (symbols : Four Bool) (s : State) : Keeps (tick symbols s) s :=
  (tickTime_keeps _).trans (foldl_keeps (tickPort_keeps symbols) _ _)

theorem snapshotWork_keeps (p : Port) (e : QEntry) (s : State) : Keeps (snapshotWork p e s).1 s := by
  unfold snapshotWork
  split
  · exact takeSnapshot_keeps _
  · exact .rfl

theorem eventMaskWork_keeps (p : Port) (e : QEntry) (s : State) : Keeps (eventMaskWork p e s).1 s := by
  unfold eventMaskWork
  split
  · exact updPort_keeps _ _ _
  · exact .rfl

theorem unknownRequest_keeps (p : Port) (code : Byte) (f : RequestFrame) (s : State) :
    Keeps (unknownRequest p code f s) s := arrive_keeps _ _ _ _ _

theorem discardBad_keeps (p : Port) (s : State) : Keeps (discardBad p s) s :=
  (raiseTo_keeps _ _ _).trans ((countPort_keeps _ _ _ _).trans (seeSymbols_keeps _ _))

theorem transmitNext_keeps (p : Port) (s : State) : Keeps (transmitNext p s) s := by
  unfold transmitNext
  split
  · exact (updPort_keeps _ _ _).trans (.of_same rfl rfl rfl rfl rfl rfl)
  · exact .rfl
  · exact .rfl

/-! ## Recovery, FORMAT, RESTART and the clock -/

theorem enterReady_keeps (s : State) : Keeps (enterReady s) s :=
  (raiseAll_keeps _ _).trans ((evalContainersLow_keeps _).trans ((evalOccupancy_keeps _).trans ⟨rfl, id, id⟩))

/-- Settings in canonical form loaded into the blocks that own them (R175). -/
theorem loadSettings_keeps {v : Settings} (hv : tableWf NsRec.zero v.namespaces = true) (s : State) :
    Keeps (loadSettings v s) s := by
  refine .of_tables rfl (fun h => ?_) rfl
  obtain ⟨hmem, hclaims, hcontexts, -, hstu⟩ := h
  exact ⟨hmem, hclaims, hcontexts, hv, hstu⟩

/-- Recovery's first three steps load settings that the memory they leave keeps in canonical form. -/
theorem recoverHeader_keeps (s : State) : Keeps (recoverHeader s) s := by
  have hwf : s.mem.wf = true → (recoverSettings (recoverClock (recoverStartCount s.mem))).wf = true := fun h =>
    recoverSettings_wf (recoverClock_wf (recoverStartCount_wf h))
  refine .of_tables (by simp [recoverHeader, loadSettings]) (fun h => evalAdmissions_tablesOk ?_)
    (by simp [recoverHeader, loadSettings])
  obtain ⟨hmem, hclaims, hcontexts, -, hstu⟩ := h
  exact ⟨hwf hmem, hclaims, hcontexts, ((IndexMemory.wf_iff _).mp (hwf hmem)).2.2.1, hstu⟩

theorem recoverIndex_keeps (s : State) : Keeps (recoverIndex s) s := by
  have hrest : ∀ (ds : Four Descriptor) (t : State), Keeps (rebuildCtu
      { t with
        mem := recoverArea ds (recoverSlots ds none t.mem),
        ixc := { t.ixc with occupancy := occupancyOf ds (recoverSlots ds none t.mem) } }) t := fun ds t =>
    .of_tables rfl (fun h => h.withMem (recoverArea_wf ds (recoverSlots_wf ds none h.1)) rfl rfl rfl rfl rfl) rfl
  have hflag : Keeps { s with mif := { s.mif with containerRebuilt := !areaHolds s.mem } } s :=
    .of_same rfl rfl rfl rfl rfl rfl
  unfold recoverIndex
  dsimp only
  split
  · exact (hrest _ _).trans ((raiseAll_keeps _ _).trans hflag)
  · exact (hrest _ _).trans hflag

theorem recover_keeps (s : State) : Keeps (recover s) s :=
  (enterReady_keeps _).trans ((recoverIndex_keeps _).trans (recoverHeader_keeps _))

theorem refuseWaiting_keeps (s : State) (p : Port) : Keeps (refuseWaiting s p) s :=
  foldl_keeps (fun _ _ => answerEntry_keeps _ _ _ _) _ _

theorem enterFormatting_keeps (p : Port) (e : QEntry) (s : State) : Keeps (enterFormatting p e s) s :=
  (foldl_keeps refuseWaiting_keeps _ _).trans ((evalContainersLow_keeps _).trans ((evalOccupancy_keeps _).trans
    ((markTaken_keeps _ _ _).trans ⟨rfl, id, id⟩)))

theorem takeFormatNow_keeps (p : Port) (e : QEntry) (s : State) : Keeps (takeFormatNow p e s) s := by
  unfold takeFormatNow
  split
  · exact (answerEntry_keeps _ _ _ _).trans (.of_same rfl rfl rfl rfl rfl rfl)
  · exact enterFormatting_keeps _ _ _

theorem takeFormat_keeps (p : Port) (e : QEntry) (s : State) : Keeps (takeFormat p e s) s := by
  unfold takeFormat
  split
  · exact .of_same rfl rfl rfl rfl rfl rfl
  · exact takeFormatNow_keeps _ _ _

theorem formatBlocks_keeps (n : BitVec 16) (s : State) : Keeps (formatBlocks n s) s := by
  refine .of_tables rfl (fun h => ?_) rfl
  obtain ⟨hmem, hclaims, hcontexts, -, hstu⟩ := h
  exact ⟨formatHeader_wf _ _ (formatSettings_wf (formatArea_wf (formatSlots_wf _ none hmem))), hclaims, hcontexts, rfl,
    hstu⟩

theorem formatWalk_keeps (j : FormatJob) (s : State) : Keeps (formatWalk j s) s :=
  (answer_keeps _ _ _ _ _).trans ((enterReady_keeps _).trans (formatBlocks_keeps _ _))

theorem saveClock_keeps (s : State) : Keeps (saveClock s) s := updMem_keeps (fun _ => memHeader_wf _) s

theorem advanceClock_keeps (s : State) : Keeps (advanceClock s) s :=
  (doWhen_keeps (clockSaveDue s) (saveClock_keeps s)).same rfl rfl rfl rfl rfl rfl

theorem takeRestart_keeps (p : Port) (e : QEntry) (s : State) : Keeps (takeRestart p e s) s :=
  (answerEntry_keeps p e (.done .none) s).same rfl rfl rfl rfl rfl rfl

theorem cutWalk_keeps (w : WalkPoint) (s : State) : Keeps (cutWalk w s) s := by
  unfold cutWalk
  split
  · exact updMem_keeps (fun _ => cutRecovery_wf _ w) s
  · exact updMem_keeps (fun _ => cutFormat_wf _ w) s
  · exact .rfl

/-- A part after its reset has no counter and no record but those of index memory. -/
theorem afterReset_keeps {s : State} (out : Four (List Byte)) {m : IndexMemory} (i : StartInputs) (st : IndexState)
    (hm : s.mem.wf = true → m.wf = true) : Keeps (State.afterReset s.pending out m i st) s :=
  ⟨rfl, fun h => ⟨hm h.1, rfl, rfl, rfl, rfl, rfl⟩,
    fun _ => ⟨fun _ he => absurd he List.not_mem_nil, fun _ he => absurd he List.not_mem_nil⟩⟩

theorem startPart_keeps (inputs : StartInputs) (s : State) : Keeps (startPart inputs s) s :=
  afterReset_keeps _ _ _ (moveModules_wf inputs.stood)

theorem restartPart_keeps (inputs : StartInputs) (w : WalkPoint) (s : State) : Keeps (restartPart inputs w s) s := by
  have hflush : Keeps (flushResponses s) s := .of_same rfl rfl rfl rfl rfl rfl
  exact ((startPart_keeps inputs _).trans ((doWhen_keeps _ (saveClock_keeps _)).trans
    ((cutWalk_keeps w _).trans hflush))).same rfl rfl rfl rfl rfl rfl

theorem losePower_keeps (w : WalkPoint) (s : State) : Keeps (losePower w s) s :=
  ((afterReset_keeps (cutWalk w s).linkOut unfittedInputs .noMemory id).trans (cutWalk_keeps w s)).same
    rfl rfl rfl rfl rfl rfl

/-! ## Parameters -/

theorem changeTaken_keeps (c : ParamChange) (s : State) : Keeps (changeTaken c s) s := by
  have happly : ∀ q s, Keeps (applyParam q s) s := by
    intro q s
    unfold applyParam
    split
    · split
      · exact .of_same rfl rfl rfl rfl rfl rfl
      · exact .rfl
    · exact .of_same rfl rfl rfl rfl rfl rfl
    · exact retimed_keeps _ _
    · exact retimed_keeps _ _
    · exact evalOccupancy_keeps _
    · exact evalContainersLow_keeps _
    all_goals exact .rfl
  exact (answer_keeps _ _ _ _ _).trans ((happly _ _).trans (.of_same rfl rfl rfl rfl rfl rfl))

theorem setChanges_keeps (l : List ParamChange) (s : State) : Keeps (setChanges l s) s :=
  .of_same rfl rfl rfl rfl rfl rfl

theorem ownChange_keeps (p : Port) (q : Param) (s : State) : Keeps (ownChange p q s) s := by
  unfold ownChange
  split
  · split
    · exact (changeTaken_keeps _ _).trans (setChanges_keeps _ _)
    · exact .rfl
  · exact .rfl

theorem unitChange_keeps (p u : Port) (s : State) : Keeps (unitChange p u s) s := by
  unfold unitChange
  split
  · split
    · exact .rfl
    · split
      · exact (changeTaken_keeps _ _).trans (setChanges_keeps _ _)
      · exact setChanges_keeps _ _
  · exact .rfl

theorem handChange_keeps (p : Port) (e : QEntry) (s : State) : Keeps (handChange p e s) s := by
  unfold handChange
  split
  · exact (setChanges_keeps _ _).trans
      ((updMem_keeps (fun _ h => by exact sameNamespaces_wf h rfl) _).trans (markTaken_keeps _ _ _))
  · exact answerEntry_keeps _ _ _ _

theorem takeParameter_keeps (p : Port) (e : QEntry) (s : State) : Keeps (takeParameter p e s) s := by
  have hown : ∀ q s, Keeps (ownWhole p q s) s := by
    intro q s
    unfold ownWhole
    split
    · exact foldl_keeps (fun s u => unitChange_keeps p u s) _ _
    · exact ownChange_keeps _ _ _
  unfold takeParameter
  split
  · exact (doWhen_keeps _ (hown _ _)).trans (handChange_keeps _ _ _)
  · exact handChange_keeps _ _ _

theorem getParameterWork_keeps (p : Port) (e : QEntry) (s : State) : Keeps (getParameterWork p e s).1 s := by
  unfold getParameterWork
  split <;> exact .rfl

/-! ## The sweeper -/

theorem grantSweeper_keeps (s : State) (g : State × Turn) (h : grantSweeper s = some g) : Keeps g.1 s := by
  unfold grantSweeper at h
  split at h
  · cases h
    exact grantTurn_keeps _ _ _
  · cases h

theorem purgeIfDue_keeps (grace : Nat) (now : BitVec 40) (n : Nat) (s : State) : Keeps (purgeIfDue grace now n s) s := by
  unfold purgeIfDue
  split
  · exact (countNs_keeps _ _ _ _).trans ((countNs_keeps _ _ _ _).trans ((departLocation_keeps _ _).trans
      ((setOccupancy_keeps _ _).trans (slotPut_keeps _ _ _))))
  · exact .rfl

theorem sweepSlot_keeps (mode : SweepMode) (grace : Nat) (now : BitVec 40) (s : State) (n : Nat) :
    Keeps (sweepSlot mode grace now s n) s := by
  unfold sweepSlot
  split
  · exact .rfl
  · exact (purgeIfDue_keeps _ _ _ _).trans (verifySlot_keeps _ _)
  · split
    · exact (purgeIfDue_keeps _ _ _ _).trans (verifySlot_keeps _ _)
    · exact .rfl

theorem endBucket_keeps (s : State) : Keeps (endBucket s) s := by
  unfold endBucket
  dsimp only
  split
  · exact (raiseAll_keeps _ _).trans (.of_same rfl rfl rfl rfl rfl rfl)
  · exact .of_same rfl rfl rfl rfl rfl rfl

theorem finishSweep_keeps (t : Turn) (s : State) : Keeps (finishSweep t s) s := by
  unfold finishSweep
  split
  · exact (endTurn_keeps _).trans ((endBucket_keeps _).trans (foldl_keeps (sweepSlot_keeps _ _ _) _ _))
  · exact .rfl

/-! ## Every command -/

section
variable (s : State)

/-- A command of a powered part keeps what its meaning keeps. -/
theorem Ends.keeps {s : State} {g : State → State} (hg : Keeps (g s) s) :
    Ends (Keeps · s) (.next (whenPowered s g)) := .powered .rfl hg

theorem answered_ends_keeps (k : Kind) {work : Port → QEntry → State → State × Answer} (p : Port) (r : RequestStep)
    (hwork : ∀ e s, Keeps (work p e s).1 s) :
    Ends (Keeps · s) (.next (whenPowered s (runRequest k (answering work) p r))) :=
  .keeps (runRequest_keeps k p r (answering_keeps hwork) s)

theorem turn_ends_keeps (k : Kind) {core : QEntry → State → State × Answer} (p : Port) (st : OpStep)
    (hcore : ∀ e s, Keeps (core e s).1 s) :
    Ends (Keeps · s) (.next (whenPowered s (runTurn (grantPort p k) (finishPort core p) (isPortTurn p k) st))) :=
  .keeps (runTurn_keeps st (grantPort_keeps p k s) (finishPort_keeps hcore p))

/-- Every command but a reception keeps queue, tables and counters. -/
theorem exec_keeps_of_not_reception (c : Instr) (hc : isReception c = false) : Ends (Keeps · s) (exec c s) := by
  cases c with
  | powerOn inputs => exact .next (startPart_keeps inputs s)
  | recovery => exact .keeps (doWhen_keeps _ (recover_keeps s))
  | badFrame p r => cases hc
  | frameDiscardedListFull p r => cases hc
  | responseTransmitted p => exact .keeps (transmitNext_keeps p s)
  | identify p r => exact answered_ends_keeps s _ p r fun _ _ => .rfl
  | portStatus p r => exact answered_ends_keeps s _ p r fun _ _ => .rfl
  | indexStatus p r => exact answered_ends_keeps s _ p r fun _ _ => .rfl
  | containerStatus p r => exact .keeps (runContainer_keeps _ p r (containerStatusWork_keeps p) s)
  | findEmpty p r => exact .keeps (runContainer_keeps _ p r (findEmptyWork_keeps p) s)
  | events p r => exact answered_ends_keeps s _ p r fun _ _ => .of_same rfl rfl rfl rfl rfl rfl
  | setEventMask p r => exact answered_ends_keeps s _ p r (eventMaskWork_keeps p)
  | stats p r => exact answered_ends_keeps s _ p r fun _ _ => .rfl
  | getParameter p r => exact answered_ends_keeps s _ p r (getParameterWork_keeps p)
  | setParameter p r =>
    cases r with
    | request r => exact .keeps (runRequest_keeps _ p r (takeParameter_keeps p) s)
    | write tag => exact .keeps (takeRequest_keeps _ p tag (handChange_keeps p) s)
    | own q => exact .keeps (ownChange_keeps p q s)
    | unit u => exact .keeps (unitChange_keeps p u s)
  | lookup p f => exact .keeps (arrive_keeps _ _ _ _ s)
  | probe p f => exact .keeps (arrive_keeps _ _ _ _ s)
  | ref p f => exact .keeps (arrive_keeps _ _ _ _ s)
  | release p f => exact .keeps (arrive_keeps _ _ _ _ s)
  | move p f => exact .keeps (arrive_keeps _ _ _ _ s)
  | readSlot p f => exact .keeps (arrive_keeps _ _ _ _ s)
  | drop p f => exact .keeps (arrive_keeps _ _ _ _ s)
  | restore p f => exact .keeps (arrive_keeps _ _ _ _ s)
  | lookupOperation p st => exact .keeps (runTurn_keeps st (grantPort_keeps p _ s) (finishLookup_keeps p))
  | probeOperation p st => exact turn_ends_keeps s _ p st probeOf_keeps
  | refOperation p st => exact turn_ends_keeps s _ p st refOf_keeps
  | releaseOperation p st => exact turn_ends_keeps s _ p st (releaseOf_keeps p)
  | moveOperation p st => exact turn_ends_keeps s _ p st (moveOf_keeps p)
  | readSlotOperation p st => exact turn_ends_keeps s _ p st readSlotOf_keeps
  | dropOperation p st => exact turn_ends_keeps s _ p st dropOf_keeps
  | restoreOperation p st => exact turn_ends_keeps s _ p st restoreOf_keeps
  | commit p r => exact .keeps (runRequest_keeps _ p r (takeCommit_keeps p) s)
  | commitEntryUpdate st => exact .keeps (runTurn_keeps st (grantClu_keeps _ s) finishClu_keeps)
  | abandon p r => exact .keeps (runRequest_keeps _ p r (takeAbandon_keeps p) s)
  | freeingUpdate st => exact .keeps (runTurn_keeps st (grantClu_keeps _ s) finishClu_keeps)
  | claimExpiry n => exact .keeps (doWhen_keeps _ (expireClaim_keeps n s))
  | cancel p r => exact .keeps (runRequest_keeps _ p r (takeCancel_keeps p) s)
  | openContainer p r => exact .keeps (runContainer_keeps _ p r (openContainerWork_keeps p) s)
  | closeContainer p r => exact .keeps (runContainer_keeps _ p r (closeContainerWork_keeps p) s)
  | reclaim p r => exact .keeps (runContainer_keeps _ p r (reclaimWork_keeps p) s)
  | lookupBatch p r => exact .keeps (runRequest_keeps _ p r (takeBatch_keeps p) s)
  | probeBatch p r => exact .keeps (runRequest_keeps _ p r (takeBatch_keeps p) s)
  | releaseBatch p r => exact .keeps (runRequest_keeps _ p r (takeBatch_keeps p) s)
  | batchItemOperation st => exact .keeps (runTurn_keeps st (grantBte_keeps s) finishItem_keeps)
  | itemAnswer =>
    refine .keeps ?_
    split
    · exact (takeItemAnswer_keeps _ _ _ _ _).trans (dropMessage_keeps s)
    · exact .rfl
  | batchCancellation =>
    refine .keeps ?_
    split
    · exact (takeCancellation_keeps _ _ _ _ _).trans (dropMessage_keeps s)
    · exact .rfl
  | withdrawalRequest => exact .keeps (doWhen_keeps _ (takeWithdrawal_keeps s))
  | withdrawalAnswer =>
    refine .keeps ?_
    split
    · exact (takeWithdrawalAnswer_keeps _ _ _ _).trans (dropMessage_keeps s)
    · exact .rfl
  | sweeperBucketOperation st => exact .keeps (runTurn_keeps st (grantSweeper_keeps s) finishSweep_keeps)
  | millisecondTick symbols => exact .keeps (tick_keeps symbols s)
  | loss p => exact .keeps (doWhen_keeps _ (judgeAhead_keeps p (judgeQuiet_keeps p s)))
  | persistenceMet p => exact .keeps (doWhen_keeps _ (judgeAhead_keeps p (judgeSteady_keeps p s)))
  | firstSymbol p => exact .keeps (updPort_keeps p _ s)
  | admitPort p r => exact answered_ends_keeps s _ p r (admitWork_keeps p)
  | evict p r => exact answered_ends_keeps s _ p r (evictWork_keeps p)
  | ctuTeardown p => exact .keeps (doWhen_keeps _ (takeCtuTeardown_keeps p s))
  | bteTeardown p => exact .keeps (doWhen_keeps _ (takeBteTeardown_keeps p s))
  | cluTeardown p => exact .keeps (doWhen_keeps _ (takeCluTeardown_keeps p s))
  | teardownCompletion =>
    refine .keeps ?_
    split
    · exact (takeCompletion_keeps _ _).trans (dropMessage_keeps s)
    · exact .rfl
  | setNamespace p r => exact answered_ends_keeps s _ p r (setNamespaceWork_keeps p)
  | setPort p r => exact answered_ends_keeps s _ p r (setPortWork_keeps p)
  | snapshot p r => exact answered_ends_keeps s _ p r (snapshotWork_keeps p)
  | intervalEnd => exact .keeps (doWhen_keeps _ ((retimed_keeps (some 0) _).trans (takeSnapshot_keeps s)))
  | indexClockAdvance => exact .keeps (doWhen_keeps _ (advanceClock_keeps s))
  | clockSave => exact .keeps (doWhen_keeps _ (saveClock_keeps s))
  | format p r => exact .keeps (runRequest_keeps _ p r (takeFormat_keeps p) s)
  | formatAfterOperation =>
    refine .keeps ?_
    split
    · exact takeFormatNow_keeps _ _ _
    · exact .rfl
  | formatWalk =>
    refine .keeps ?_
    split
    · exact doWhen_keeps _ (formatWalk_keeps _ s)
    · exact .rfl
  | restart p r => exact .keeps (runRequest_keeps _ p r (takeRestart_keeps p) s)
  | restartReset inputs w => exact .keeps (doWhen_keeps _ (restartPart_keeps inputs w s))
  | silenceEnd => exact .keeps (doWhen_keeps _ (.of_same rfl rfl rfl rfl rfl rfl))
  | powerLoss w => exact .keeps (losePower_keeps w s)
  | unknownKindCode p code f => exact .keeps (doWhen_keeps _ (unknownRequest_keeps p code f s))

theorem exec_keeps (c : Instr) : Ends (Keeps · s) (exec c s) := by
  have hreception : ∀ p r, Ends (Keeps · s) (receiveFrame p r s) := fun p r =>
    .reception r .rfl (seeSymbols_keeps p s) (discardBad_keeps p s) (fun code f => unknownRequest_keeps p code f s)
      (exec_keeps_of_not_reception s)
  cases hc : isReception c with
  | false => exact exec_keeps_of_not_reception s c hc
  | true =>
    cases c with
    | badFrame p r => exact hreception p r
    | frameDiscardedListFull p r => exact hreception p r
    | _ => cases hc

end

/-- Settles O59: every command keeps the canonical form of the tables and the range of the counters. -/
theorem stepKeepsTablesAndCounters : Obligations.StepKeepsTablesAndCounters := by
  refine ⟨fun s t h hstep => step_ends h (fun c rest _ => ?_) hstep, fun s t h hstep =>
    step_ends h (fun c rest _ => ?_) hstep⟩
  · obtain ⟨u, hu, hk⟩ := exec_keeps (s.withPending rest) c
    exact ⟨u, hu, hk.tables (h.of_same rfl rfl rfl rfl rfl rfl)⟩
  · obtain ⟨u, hu, hk⟩ := exec_keeps (s.withPending rest) c
    exact ⟨u, hu, hk.counters (h.of_stu rfl)⟩

/-- Settles O2: a command's next state keeps the queue, whatever the command and the state. -/
theorem everyCommandAnswersNext : Obligations.EveryCommandAnswersNext := by
  intro c s
  obtain ⟨t, ht, hk⟩ := exec_keeps s c
  exact ⟨t, ht, hk.pending⟩

end Sys2Proof.Machine
end

section
/-! Requests answered in the event that takes them, and the small laws of steps, resets, writes, notices and counters. -/

namespace Sys2Proof.Machine

/-! ## Requests answered in the event that takes them -/

/-- A request is queued as before where the port's queue and session number are. -/
theorem IsQueued.congr {s t : State} {p : Port} {e : QEntry} (h : IsQueued s p e)
    (hq : (portUnit t p).queue = (portUnit s p).queue) (hs : (portUnit t p).session = (portUnit s p).session) :
    IsQueued t p e := by
  unfold IsQueued queued at *
  rw [hq, hs]
  exact h

/-- A request that can be taken is what its block does with it. -/
theorem request_taken {s : State} {p : Port} {e : QEntry} {k : Kind} (h : CanTake s p e) (hk : e.kind = k)
    (act : Port → QEntry → State → State) : whenPowered s (runRequest k act p (.take e.tag)) = act p e s :=
  hk ▸ runRequest_take h act

/-- A request that can be taken is answered with the outcome of its work, where that leaves it queued. -/
theorem request_answered_of_queued {s t : State} {p : Port} {e : QEntry} {k : Kind} {a : Answer}
    {work : Port → QEntry → State → State × Answer} (h : CanTake s p e) (hk : e.kind = k) (hwork : work p e s = (t, a))
    (hq : IsQueued t p e) (hr : t.mif.restartTaken = s.mif.restartTaken) :
    whenPowered s (runRequest k (answering work) p (.take e.tag)) = answered p e a t := by
  rw [request_taken h hk, answering, hwork]
  exact answerEntry_answered hq (hr.trans h.restart) a

/-- A request that can be taken and whose work changes port units by notices alone is answered with its outcome. -/
theorem request_answered {s t : State} {p : Port} {e : QEntry} {k : Kind} {a : Answer}
    {work : Port → QEntry → State → State × Answer} (h : CanTake s p e) (hk : e.kind = k) (hwork : work p e s = (t, a))
    (hq : QuietWork t s) : whenPowered s (runRequest k (answering work) p (.take e.tag)) = answered p e a t :=
  request_answered_of_queued h hk hwork (h.isQueued.of_notices hq.1) (by rw [hq.2])

/-- A container request that can be taken is taken as any request is (R143). -/
theorem runContainer_request (k : Kind) (work : Port → QEntry → State → State × Answer) (p : Port) (r : RequestStep)
    (s : State) : runContainer k work p (.request r) s = runRequest k (answering work) p r s := rfl

/-! ## Steps and resets -/

/-- Settles O1: a step is the match on the queue. -/
theorem stepTakesFrontCommand : Obligations.StepTakesFrontCommand := fun _ _ _ => ⟨rfl, rfl⟩

theorem portUnit_afterReset (q : List Instr) (out : Four (List Byte)) (m : IndexMemory) (i : StartInputs)
    (st : IndexState) (p : Port) :
    portUnit (State.afterReset q out m i st) p = PortUnit.reset (fourGet i.straps p) := by
  cases p <;> rfl

/-- Settles O3: the reset state gives each value, and its tables list nothing. -/
theorem resetLeavesEveryBlockEmpty : Obligations.ResetLeavesEveryBlockEmpty := by
  refine ⟨fun q out m i st => ?_, rfl⟩
  refine ⟨portUnit_afterReset q out m i st, rfl, rfl, rfl, rfl, fun _ => ⟨rfl, rfl, rfl⟩, rfl, rfl,
    fun p => by cases p <;> rfl, rfl, rfl, rfl, fun _ => rfl, rfl, rfl, rfl, rfl, rfl, rfl, rfl, fun _ => rfl,
    fun _ => ⟨rfl, rfl⟩, rfl, rfl, rfl, rfl, rfl, rfl, rfl⟩

/-- Settles O60: a part after its reset has port units at their reset values and lists nothing. -/
theorem invariantsHoldAtReset : Obligations.InvariantsHoldAtReset :=
  ⟨afterReset_portsOk _ _ _ _ _, ⟨blank_wf, rfl, rfl, rfl, rfl, rfl⟩,
    ⟨fun _ he => absurd he List.not_mem_nil, fun _ he => absurd he List.not_mem_nil⟩⟩

/-- Settles O24: a slot number has one place, and a table read after a write gives the record written. -/
theorem writesKeepTheOthers : Obligations.WritesKeepTheOthers := by
  refine ⟨fun s n m im => ⟨slotGet_slotPut_same n im s, slotGet_slotPut_ne im s, rfl⟩, fun s c r =>
    ⟨containerGet_containerPut_same c r s, fun d hd => ?_, rfl, rfl⟩⟩
  rw [containerGet_containerPut, if_neg (Ne.symm hd)]

/-! ## Notices and level conditions (R12, R86, R166, R167, R170) -/

theorem unitRaise_events (k : EventKind) (u : PortUnit) :
    (unitRaise k u).events =
      if u.state = .down then u.events else u.events ||| BitVec.twoPow 13 (eventCode k) := by
  unfold unitRaise
  split <;> rfl

theorem unitRaise_signalled (k : EventKind) (u : PortUnit) :
    (unitRaise k u).occSignalled = u.occSignalled ∧ (unitRaise k u).lowSignalled = u.lowSignalled := by
  unfold unitRaise
  split <;> exact ⟨rfl, rfl⟩

theorem unitSignalOccupancy_signalled (v : Bool) (u : PortUnit) : (unitSignalOccupancy v u).occSignalled = v := by
  unfold unitSignalOccupancy
  split
  · exact (unitRaise_signalled _ _).1
  · rfl

theorem unitSignalLow_signalled (v : Bool) (u : PortUnit) : (unitSignalLow v u).lowSignalled = v := by
  unfold unitSignalLow
  split
  · exact (unitRaise_signalled _ _).2
  · rfl

/-- A change of OCCUPANCY_HIGH raises its kind where it rises or the edge mode is BOTH (R167). -/
theorem unitSignalOccupancy_events (v : Bool) (u : PortUnit) :
    (unitSignalOccupancy v u).events =
      if u.state ≠ .down ∧ (v = true ∨ u.occEdge = .both) then u.events ||| BitVec.twoPow 13 5 else u.events := by
  unfold unitSignalOccupancy
  by_cases hd : u.state = .down
  · split <;> simp [unitRaise_events, hd]
  · split
    · next h => rw [if_pos ⟨hd, h.symm⟩, unitRaise_events, if_neg hd]; rfl
    · next h => rw [if_neg fun hc => h hc.2.symm]

/-- A change of CONTAINERS_LOW raises its kind where it rises or the edge mode is BOTH (R167). -/
theorem unitSignalLow_events (v : Bool) (u : PortUnit) :
    (unitSignalLow v u).events =
      if u.state ≠ .down ∧ (v = true ∨ u.lowEdge = .both) then u.events ||| BitVec.twoPow 13 6 else u.events := by
  unfold unitSignalLow
  by_cases hd : u.state = .down
  · split <;> simp [unitRaise_events, hd]
  · split
    · next h => rw [if_pos ⟨hd, h.symm⟩, unitRaise_events, if_neg hd]; rfl
    · next h => rw [if_neg fun hc => h hc.2.symm]

theorem evalOccupancy_of_same {s : State} (h : occupancyCondition s = s.ixc.occupancyHigh) : evalOccupancy s = s := by
  unfold evalOccupancy
  rw [if_pos h]

theorem evalContainersLow_of_same {s : State} (h : containersLowCondition s = s.ctu.containersLow) :
    evalContainersLow s = s := by
  unfold evalContainersLow
  rw [if_pos h]

/-- A change of OCCUPANCY_HIGH is signalled to every port unit (R12). -/
theorem portUnit_evalOccupancy (s : State) (p : Port) :
    portUnit (evalOccupancy s) p =
      if occupancyCondition s = s.ixc.occupancyHigh then portUnit s p
      else unitSignalOccupancy (occupancyCondition s) (portUnit s p) := by
  unfold evalOccupancy
  split
  · rfl
  · exact portUnit_updPorts _ _ _

/-- A change of CONTAINERS_LOW is signalled to every port unit (R86). -/
theorem portUnit_evalContainersLow (s : State) (p : Port) :
    portUnit (evalContainersLow s) p =
      if containersLowCondition s = s.ctu.containersLow then portUnit s p
      else unitSignalLow (containersLowCondition s) (portUnit s p) := by
  unfold evalContainersLow
  split
  · rfl
  · exact portUnit_updPorts _ _ _

/-- Settles O25: the kinds' codes, a raise port unit by port unit, and each level condition by whether it changes. -/
theorem noticesAndLevelConditions : Obligations.NoticesAndLevelConditions := by
  refine ⟨fun k => by cases k <;> rfl, fun s k p => ⟨rfl, rfl, rfl⟩, fun s => ⟨evalOccupancy_of_same, fun hhigh => ?_,
    evalContainersLow_of_same, fun hlow => ?_⟩⟩
  · refine ⟨evalOccupancy_ixc s, fun p => ?_⟩
    have hchange : occupancyCondition s ≠ s.ixc.occupancyHigh := hhigh
    rw [portUnit_evalOccupancy, if_neg hchange]
    exact ⟨unitSignalOccupancy_signalled _ _, unitSignalOccupancy_events _ _⟩
  · refine ⟨evalContainersLow_ctu s, fun p => ?_⟩
    have hchange : containersLowCondition s ≠ s.ctu.containersLow := hlow
    rw [portUnit_evalContainersLow, if_neg hchange]
    exact ⟨unitSignalLow_signalled _ _, unitSignalLow_events _ _⟩

/-- Settles O26: each request's work changes its own port unit and leaves it queued. -/
theorem eventRequestsReadAndMask : Obligations.EventRequestsReadAndMask := by
  intro s p e htake
  refine ⟨fun hkind => ?_, fun mask occ low hkind hreq => ?_⟩
  · have hwork : eventsWork p e s =
        (updPort p (fun u => { u with events := 0#13, attn := false }) s,
          .done (.eventSet (portUnit s p).events (portUnit s p).occSignalled (portUnit s p).lowSignalled)) := by
      simp [eventsWork, unitAttn]
    exact congrArg _ (request_answered_of_queued htake hkind hwork
      (htake.isQueued.congr (by simp) (by simp)) rfl)
  · have hwork : eventMaskWork p e s =
        (updPort p (unitMask mask occ low) s,
          .done (.eventMask mask (occ.getD (portUnit s p).occEdge) (low.getD (portUnit s p).lowEdge))) := by
      simp only [eventMaskWork, hreq]
      rfl
    exact congrArg _ (request_answered_of_queued htake hkind hwork
      (htake.isQueued.congr (by rw [portUnit_updPort_same]; rfl) (by rw [portUnit_updPort_same]; rfl)) rfl)

/-! ## Counters and snapshots (R160 to R164) -/

/-- The first saturated flag of a round is set by this count (R161). -/
theorem counterAdd_saturated (c : Counter) (n : Nat) :
    (counterAdd c n).saturated = (c.saturated || decide (Config.counterMax ≤ c.value + n)) := by
  unfold counterAdd
  split
  · next h => simp [Nat.not_le.mpr h]
  · next h => simp [Nat.not_lt.mp h]

theorem counterAdd_below {c : Counter} {n : Nat} (h : c.value + n < Config.counterMax) :
    counterAdd c n = { value := c.value + n, saturated := c.saturated } := by
  unfold counterAdd
  rw [if_pos h]

theorem counterAdd_above {c : Counter} {n : Nat} (h : Config.counterMax ≤ c.value + n) :
    counterAdd c n = { value := Config.counterMax, saturated := true } := by
  unfold counterAdd
  rw [if_neg (Nat.not_lt.mpr h)]

/-- Settles O27: a count is split by whether it sets the first saturated flag of its round. -/
theorem countersSaturateWithOneNotice : Obligations.CountersSaturateWithOneNotice := by
  refine ⟨fun s k n => ?_, fun s n => ⟨?_, ?_, ?_⟩, fun _ => rfl, fun _ _ _ _ _ => rfl⟩
  · intro c t noticed
    refine ⟨fun hbelow => ?_, fun habove => ?_, fun m hm => ?_, ?_⟩
    · rw [countOne_live, if_pos rfl, counterAdd_below hbelow]
    · rw [countOne_live, if_pos rfl, counterAdd_above habove]
      rfl
    · rw [countOne_live, if_neg (Ne.symm hm)]
    · have hfirst : ((counterAdd c n).saturated = true ∧ c.saturated = false ∧ s.stu.notice = false) ↔
          noticed = true := by
        rw [counterAdd_saturated]
        simp only [noticed, Bool.or_eq_true, Bool.and_eq_true, Bool.not_eq_true', decide_eq_true_eq]
        change (_ ∨ 2 ^ 48 - 1 ≤ _) ∧ _ ↔ _
        cases c.saturated <;> simp
      by_cases hn : noticed = true
      · have ht : t = raiseAll .counterSaturated
            { s with stu :=
              { s.stu with live := tableSet Counter.zero s.stu.live k (counterAdd c n), notice := true } } := by
          simp only [t, countOne]
          exact if_pos (hfirst.mpr hn)
        rw [ht]
        simp [hn]
        rfl
      · have ht : t = { s with stu :=
            { s.stu with live := tableSet Counter.zero s.stu.live k (counterAdd c n) } } := by
          simp only [t, countOne]
          exact if_neg (fun h => hn (hfirst.mp h))
        rw [ht]
        simp [hn]
  · intro ns c hns
    unfold countNs
    rw [if_pos hns]
    cases c <;> rfl
  · intro ns c hns
    unfold countNs
    rw [if_neg (Nat.not_le.mpr hns)]
  · intro p c
    cases c <;> rfl

theorem intervalDue_of_timer {s : State} {t : Nat} (h : s.stu.timer = some t) :
    intervalDue s = (decide (s.mif.indexState = .ready) && decide (s.params.statsMode = .interval) &&
      decide (s.params.statsIntervalS * 1000 ≤ t)) := by
  unfold intervalDue
  rw [h]

/-- Settles O28: SNAPSHOT by the mode, and the interval's end by its timer. -/
theorem snapshotsAreTaken : Obligations.SnapshotsAreTaken := by
  refine ⟨fun s p e htake hkind => ⟨fun hmode => ?_, fun hmode => ?_⟩, fun s hpow => ?_⟩
  · have hwork : snapshotWork p e s = (takeSnapshot s, .done (.sequence (s.stu.sequence + 1#32))) := by
      simp only [snapshotWork, hmode]
    exact congrArg _ (request_answered htake hkind hwork ⟨takeSnapshot_notices s, rfl⟩)
  · have hwork : snapshotWork p e s = (s, .wrongState) := by simp only [snapshotWork, hmode]
    exact congrArg _ (request_answered htake hkind hwork .rfl)
  · have hrun : exec .intervalEnd s = .next (doWhen (intervalDue s) (fun s => restartTimer (takeSnapshot s)) s) :=
      congrArg _ (if_pos hpow)
    refine ⟨fun t ht hready hmode hdue => ?_, fun t ht hlt => ?_, fun hnone => ?_⟩
    · have hd : intervalDue s = true := by simp [intervalDue_of_timer ht, hready, hmode, hdue]
      rw [hrun, hd]
      rfl
    · have hd : intervalDue s = false := by simp [intervalDue_of_timer ht, hlt]
      rw [hrun, hd]
      rfl
    · have hd : intervalDue s = false := by simp only [intervalDue, hnone]
      rw [hrun, hd]
      rfl

end Sys2Proof.Machine
end

section
/-! Namespaces, port records, admission, the link detector and the departure of ports (R139 to R156). -/

namespace Sys2Proof.Machine

/-! ## SET_NAMESPACE (R139, R140) -/

/-- Settles O29: with a part carried, table and settings area take the record after the change. -/
theorem setNamespaceWritesParts : Obligations.SetNamespaceWritesParts := by
  intro s p e n st hold htake hkind hreq old new
  refine ⟨fun hst hhold => ?_, fun hpart => ?_⟩
  · have hwork : setNamespaceWork p e s = (s, .done (.namespaceRec old)) := by
      simp only [setNamespaceWork, hreq, hst, hhold, and_self, if_true]
      rfl
    exact congrArg _ (request_answered htake hkind hwork .rfl)
  · have hwork : setNamespaceWork p e s = (putNamespace n new s, .done (.namespaceRec new)) := by
      simp only [setNamespaceWork, hreq]
      exact if_neg fun hnone => hpart.elim (· hnone.1) (· hnone.2)
    refine ⟨_, _, congrArg _ (request_answered htake hkind hwork ⟨.of_ports rfl, rfl⟩), tableGet_set_same _ _ _ _,
      fun m hm => tableGet_set_ne _ _ _ hm, tableGet_set_same _ _ _ _, fun m hm => tableGet_set_ne _ _ _ hm, rfl, rfl⟩

/-! ## Admission (R149, R150) -/

theorem portUnit_enterOnline (p q : Port) (s : State) :
    portUnit (enterOnline p s) q =
      if q = p then { portUnit s p with state := .online } else unitRaise .peerAdmitted (portUnit s q) := by
  unfold enterOnline raiseOthers
  rw [portUnit_updPorts, portUnit_updPort]
  split <;> rfl

/-- Automatic admission at a port, and what the other ports are told (R149, R150). -/
theorem portUnit_evalAdmission (p q : Port) (s : State) :
    portUnit (evalAdmission p s) q =
      if admissible (portUnit s p) = true then
        if q = p then { portUnit s p with state := .online } else unitRaise .peerAdmitted (portUnit s q)
      else portUnit s q := by
  unfold evalAdmission
  split
  · exact portUnit_enterOnline p q s
  · rfl

theorem admissible_iff (u : PortUnit) :
    admissible u = true ↔ u.state = .fenced ∧ u.persistenceMet = true ∧ teardownOutstanding u = false ∧
      u.suppression = false ∧ (u.privilege = 0#2 ∨ u.autoAdmit = true) := by
  simp [admissible, and_assoc]

theorem evalAdmission_of_admissible {s : State} {p : Port} (h : admissible (portUnit s p) = true) :
    evalAdmission p s = enterOnline p s := by
  unfold evalAdmission
  rw [if_pos h]

theorem evalAdmission_of_not {s : State} {p : Port} (h : ¬ admissible (portUnit s p) = true) :
    evalAdmission p s = s := by
  unfold evalAdmission
  rw [if_neg h]

/-! ## SET_PORT (R141) -/

/-- What SET_PORT makes of a target's port unit but for notices (R141, R149); `setOnePort_unit` ties it to the model. -/
def setUnit (map : Option (BitVec 64)) (auto : Option Bool) (u : PortUnit) : PortUnit :=
  if auto = some true ∧ admissible (changedPort map auto u) = true then { changedPort map auto u with state := .online }
  else changedPort map auto u

/-- The ports that a target of SET_PORT names. -/
def setTargets : Option Port → List Port
  | some q => [q]
  | none => allPorts

section
variable (map : Option (BitVec 64)) (auto : Option Bool)

/-- A port unit that differs in notices alone is the other with its notices replaced. -/
theorem exists_notices_eq {u v : PortUnit} (h : SameButNotices u v) :
    ∃ set attn occ low, u = { v with events := set, attn := attn, occSignalled := occ, lowSignalled := low } := by
  refine ⟨u.events, u.attn, u.occSignalled, u.lowSignalled, ?_⟩
  cases u
  cases v
  simp only [PortUnit.mk.injEq]
  exact ⟨h.state, h.privilege, h.nsMap, h.autoAdmit, h.queue, h.responses, h.finishing, trivial, h.mask, h.occEdge,
    h.lowEdge, trivial, trivial, trivial, h.quiet, h.persistence, h.persistenceMet, h.suppression, h.teardownCtu, h.teardownBte,
    h.teardownClu, h.session, h.symbolSeen, h.judged⟩

theorem setUnit_notices {u v : PortUnit} (h : SameButNotices u v) :
    SameButNotices (setUnit map auto u) (setUnit map auto v) := by
  obtain ⟨set, attn, occ, low, rfl⟩ := exists_notices_eq h
  by_cases hadmit : auto = some true ∧ admissible (changedPort map auto v) = true
  · have hadmit' : auto = some true ∧ admissible (changedPort map auto
        { v with events := set, attn := attn, occSignalled := occ, lowSignalled := low }) = true := hadmit
    rw [setUnit, setUnit, if_pos hadmit, if_pos hadmit']
    constructor <;> rfl
  · have hadmit' : ¬ (auto = some true ∧ admissible (changedPort map auto
        { v with events := set, attn := attn, occSignalled := occ, lowSignalled := low }) = true) := hadmit
    rw [setUnit, setUnit, if_neg hadmit, if_neg hadmit']
    constructor <;> rfl

/-- A target's port unit keeps its queue, and takes map and flag (R141). -/
theorem setUnit_fields (u : PortUnit) :
    (setUnit map auto u).queue = u.queue ∧ (setUnit map auto u).responses = u.responses ∧
    (setUnit map auto u).session = u.session ∧ (setUnit map auto u).nsMap = map.getD u.nsMap ∧
    (setUnit map auto u).autoAdmit = auto.getD u.autoAdmit := by
  unfold setUnit
  split <;> exact ⟨rfl, rfl, rfl, rfl, rfl⟩

/-- A flag set admits a FENCED port that meets the other conditions (R141, R149). -/
theorem setUnit_state (u : PortUnit) :
    (setUnit map auto u).state =
      if auto = some true ∧ u.state = .fenced ∧ u.persistenceMet = true ∧ teardownOutstanding u = false ∧
          u.suppression = false
      then .online else u.state := by
  have hiff : (auto = some true ∧ admissible (changedPort map auto u) = true) ↔
      (auto = some true ∧ u.state = .fenced ∧ u.persistenceMet = true ∧ teardownOutstanding u = false ∧
        u.suppression = false) := by
    refine and_congr_right fun hauto => ?_
    subst hauto
    rw [admissible_iff]
    simp [changedPort, teardownOutstanding]
  unfold setUnit
  simp only [hiff]
  split <;> rfl

/-- SET_PORT's change of one port, unit by unit (R141, R149, R150). -/
theorem setOnePort_unit (s : State) (q r : Port) :
    SameButNotices (portUnit (setOnePort map auto s q) r)
      (if r = q then setUnit map auto (portUnit s q) else portUnit s r) := by
  obtain ⟨t, ht, heq⟩ : ∃ t : State, t.ports = (updPort q (changedPort map auto) s).ports ∧
      setOnePort map auto s q = if auto = some true then evalAdmission q t else t := ⟨_, by simp, rfl⟩
  have hset : ∀ r, portUnit t r = if r = q then changedPort map auto (portUnit s q) else portUnit s r := fun r => by
    rw [portUnit_ports _ _ ht, portUnit_updPort]
  have hself : portUnit t q = changedPort map auto (portUnit s q) := (hset q).trans (if_pos rfl)
  rw [heq]
  by_cases hadmit : auto = some true ∧ admissible (portUnit t q) = true
  · have hgoal : setUnit map auto (portUnit s q) = { portUnit t q with state := .online } := by
      rw [setUnit, ← hself, if_pos hadmit]
    rw [if_pos hadmit.1, portUnit_evalAdmission, if_pos hadmit.2]
    by_cases hr : r = q
    · rw [if_pos hr, if_pos hr, hgoal]
      exact .rfl
    · rw [if_neg hr, if_neg hr, hset r, if_neg hr]
      exact unitRaise_notices _ _
  · have hsame : (if auto = some true then evalAdmission q t else t) = t := by
      split
      · next hauto => exact evalAdmission_of_not fun h => hadmit ⟨hauto, h⟩
      · rfl
    have hgoal : setUnit map auto (portUnit s q) = portUnit t q := by
      rw [setUnit, ← hself, if_neg hadmit]
    rw [hsame, hgoal]
    by_cases hr : r = q
    · rw [if_pos hr, hr]
      exact .rfl
    · rw [if_neg hr, hset r, if_neg hr]
      exact .rfl

/-- SET_PORT's change of one port in the settings area, and what it leaves (R141, R173). -/
theorem setOnePort_frame (s : State) (q : Port) :
    (setOnePort map auto s q).mem =
        memSettings { s.mem.settings with ports := (fourSet s.mem.settings.ports q
          { nsMap := map.getD (portUnit s q).nsMap, autoAdmit := auto.getD (portUnit s q).autoAdmit }) } s.mem ∧
      (setOnePort map auto s q).ixc = s.ixc ∧ (setOnePort map auto s q).clu = s.clu ∧
      (setOnePort map auto s q).ctu = s.ctu ∧ (setOnePort map auto s q).bte = s.bte ∧
      (setOnePort map auto s q).swp = s.swp ∧ (setOnePort map auto s q).tmb = s.tmb ∧
      (setOnePort map auto s q).nst = s.nst ∧ (setOnePort map auto s q).stu = s.stu ∧
      (setOnePort map auto s q).mif = s.mif ∧ (setOnePort map auto s q).params = s.params := by
  unfold setOnePort
  dsimp only
  split
  · simp [updMem, portSettingOf, changedPort]
  · simp [updMem, portSettingOf, changedPort]

/-- SET_PORT's change of several ports, unit by unit. -/
theorem setPorts_units {l : List Port} (hl : l.Nodup) (s : State) (r : Port) :
    SameButNotices (portUnit (l.foldl (setOnePort map auto) s) r)
      (if r ∈ l then setUnit map auto (portUnit s r) else portUnit s r) := by
  induction l generalizing s with
  | nil => exact .rfl
  | cons q rest ih =>
    obtain ⟨hq, hrest⟩ := List.nodup_cons.mp hl
    have hone := setOnePort_unit map auto s q r
    have hmany := ih hrest (setOnePort map auto s q)
    by_cases hr : r = q
    · subst hr
      rw [if_neg hq] at hmany
      rw [if_pos rfl] at hone
      rw [if_pos List.mem_cons_self]
      exact hmany.trans hone
    · rw [if_neg hr] at hone
      simp only [List.mem_cons, hr, false_or]
      by_cases hmem : r ∈ rest
      · rw [if_pos hmem] at hmany ⊢
        exact hmany.trans (setUnit_notices map auto hone)
      · rw [if_neg hmem] at hmany ⊢
        exact hmany.trans hone

/-- SET_PORT's change of several ports in the settings area. -/
theorem setPorts_settings {l : List Port} (hl : l.Nodup) (s : State) (r : Port) :
    fourGet (l.foldl (setOnePort map auto) s).mem.settings.ports r =
      if r ∈ l then { nsMap := map.getD (portUnit s r).nsMap, autoAdmit := auto.getD (portUnit s r).autoAdmit }
      else fourGet s.mem.settings.ports r := by
  induction l generalizing s with
  | nil => rfl
  | cons q rest ih =>
    obtain ⟨hq, hrest⟩ := List.nodup_cons.mp hl
    have hone := setOnePort_unit map auto s q r
    rw [List.foldl_cons, ih hrest, (setOnePort_frame map auto s q).1]
    by_cases hr : r = q
    · subst hr
      simp [hq, memSettings]
    · rw [if_neg hr] at hone
      rw [hone.nsMap, hone.autoAdmit]
      simp [hr, memSettings, fourGet_fourSet]

/-- What SET_PORT's change of several ports leaves of the other blocks and of index memory. -/
theorem setPorts_frame (l : List Port) (s : State) :
    let t := l.foldl (setOnePort map auto) s
    t.mem.settings.params = s.mem.settings.params ∧ t.mem.settings.namespaces = s.mem.settings.namespaces ∧
      t.mem.slots = s.mem.slots ∧ t.mem.containers = s.mem.containers ∧ t.mem.header = s.mem.header ∧
      t.ixc = s.ixc ∧ t.clu = s.clu ∧ t.ctu = s.ctu ∧ t.bte = s.bte ∧ t.swp = s.swp ∧ t.tmb = s.tmb ∧
      t.nst = s.nst ∧ t.stu = s.stu ∧ t.mif = s.mif ∧ t.params = s.params := by
  induction l generalizing s with
  | nil => simp
  | cons q rest ih =>
    have hone := setOnePort_frame map auto s q
    have hmany := ih (setOnePort map auto s q)
    simp only [hone, memSettings] at hmany
    exact hmany

/-- The settings area written by SET_PORT holds its check (R173). -/
theorem setPorts_check {l : List Port} (hl : l ≠ []) (s : State) :
    (l.foldl (setOnePort map auto) s).mem.settingsCheck =
      settingsCheckOf (l.foldl (setOnePort map auto) s).mem.settings := by
  obtain ⟨init, q, rfl⟩ := (List.eq_nil_or_concat l).resolve_left hl
  rw [List.concat_eq_append, List.foldl_append, List.foldl_cons, List.foldl_nil, (setOnePort_frame map auto _ q).1]
  rfl

end

theorem setPorts_eq {map : Option (BitVec 64)} {auto : Option Bool} (target : Option Port) (s : State)
    (h : map ≠ none ∨ auto ≠ none) : setPorts target map auto s = (setTargets target).foldl (setOnePort map auto) s := by
  unfold setPorts
  rw [if_neg fun hnone => h.elim (· hnone.1) (· hnone.2)]
  cases target <;> rfl

theorem setTargets_nodup (target : Option Port) : (setTargets target).Nodup := by
  cases target <;> simp [setTargets, allPorts]

theorem mem_setTargets (target : Option Port) (q : Port) : q ∈ setTargets target ↔ target = none ∨ target = some q := by
  cases target with
  | none => simp [setTargets, mem_allPorts]
  | some r => simp [setTargets, eq_comm]

/-- Settles O30: the targets are changed one after the other, each unit once, and the request stays queued. -/
theorem setPortWritesParts : Obligations.SetPortWritesParts := by
  intro s p e target map auto htake hkind hreq
  refine ⟨fun hmap hauto => ?_, fun hpart => ?_⟩
  · have hwork : setPortWork p e s =
        (s, .done (.portSetting (portSettingOf (portUnit s (target.getD .p0))))) := by
      simp only [setPortWork, hreq, setPorts, hmap, hauto, and_self, if_true]
    exact congrArg _ (request_answered htake hkind hwork .rfl)
  · have hnodup := setTargets_nodup target
    have hunits := setPorts_units map auto hnodup s
    obtain ⟨hparams, hnamespaces, hslots, hcontainers, hheader, hixc, hclu, hctu, hbte, hswp, htmb, hnst, hstu, hmif,
      hforce⟩ := setPorts_frame map auto (setTargets target) s
    have hqueue : ∀ q, (portUnit ((setTargets target).foldl (setOnePort map auto) s) q).queue = (portUnit s q).queue ∧
        (portUnit ((setTargets target).foldl (setOnePort map auto) s) q).responses = (portUnit s q).responses ∧
        (portUnit ((setTargets target).foldl (setOnePort map auto) s) q).session = (portUnit s q).session := by
      intro q
      rw [(hunits q).queue, (hunits q).responses, (hunits q).session]
      split
      · obtain ⟨h1, h2, h3, -⟩ := setUnit_fields map auto (portUnit s q)
        exact ⟨h1, h2, h3⟩
      · exact ⟨rfl, rfl, rfl⟩
    have hat : ∀ q, q ∈ setTargets target →
        (portUnit ((setTargets target).foldl (setOnePort map auto) s) q).nsMap = map.getD (portUnit s q).nsMap ∧
        (portUnit ((setTargets target).foldl (setOnePort map auto) s) q).autoAdmit =
          auto.getD (portUnit s q).autoAdmit := by
      intro q hq
      rw [(hunits q).nsMap, (hunits q).autoAdmit, if_pos hq]
      obtain ⟨-, -, -, h4, h5⟩ := setUnit_fields map auto (portUnit s q)
      exact ⟨h4, h5⟩
    have hfirst : target.getD .p0 ∈ setTargets target := by
      cases target <;> simp [setTargets, allPorts]
    have hwork : setPortWork p e s =
        ((setTargets target).foldl (setOnePort map auto) s, .done (.portSetting
          { nsMap := map.getD (portUnit s (target.getD .p0)).nsMap,
            autoAdmit := auto.getD (portUnit s (target.getD .p0)).autoAdmit })) := by
      simp only [setPortWork, hreq, setPorts_eq target s hpart, portSettingOf, hat _ hfirst]
    refine ⟨_, congrArg _ (request_answered_of_queued htake hkind hwork
      (htake.isQueued.congr (hqueue p).1 (hqueue p).2.2) (by rw [hmif])), fun q hq => ?_, fun q hsome hother => ?_,
      setPorts_check map auto (by cases target <;> simp [setTargets, allPorts]) s, hparams, hnamespaces, hslots,
      hcontainers, hheader, fun q => ⟨(hqueue q).1, (hqueue q).2.1⟩, hixc, hclu, hctu, hbte, hswp, htmb, hnst, hstu,
      hmif, hforce⟩
    · have hmem := (mem_setTargets target q).mpr hq
      refine ⟨(hat q hmem).1, (hat q hmem).2, ?_, ?_⟩
      · rw [setPorts_settings map auto hnodup, if_pos hmem, (hat q hmem).1, (hat q hmem).2]
      · rw [(hunits q).state, if_pos hmem, setUnit_state]
    · have hmem : q ∉ setTargets target := fun h => ((mem_setTargets target q).mp h).elim hsome hother
      rw [(hunits q).nsMap, (hunits q).autoAdmit, (hunits q).state, setPorts_settings map auto hnodup, if_neg hmem,
        if_neg hmem]
      exact ⟨rfl, rfl, rfl, rfl⟩

/-! ## ADMIT and EVICT (R155, R156) -/

/-- A FORMAT of the port that waits is given up (R151, log 17). -/
theorem dropWaitingFormat_eq (p : Port) (s : State) :
    dropWaitingFormat p s =
      { s with mif := { s.mif with
          formatWaits := if s.mif.formatWaits.map (fun w => w.1) = some p then none else s.mif.formatWaits } } := by
  unfold dropWaitingFormat
  split
  · next q tag hw =>
    by_cases hq : q = p <;> simp [hw, hq]; rw [← hw]
  · next hw => rw [hw]; simp; rw [← hw]

/-- Settles O31: each request by the state of its target. -/
theorem admitAndEvictActByTarget : Obligations.AdmitAndEvictActByTarget := by
  refine ⟨fun s p e q htake hkind hreq => ⟨fun hfenced hdone => ?_, fun hnot => ?_⟩, fun s p e q htake hkind hreq =>
    ⟨fun hnot => ?_, fun hne hfenced => ?_, fun hne honline => ?_⟩⟩
  · have hwork : admitWork p e s =
        (raiseOthers q .peerAdmitted (updPort q (fun u => { u with state := .online, suppression := false }) s),
          .done .none) := by
      simp only [admitWork, hreq, hfenced, hdone, and_self, if_true, enterOnline, updPort_updPort]
    have hkept := raiseOthers_notices q .peerAdmitted
      (updPort q (fun u => { u with state := .online, suppression := false }) s) p
    refine congrArg _ (request_answered_of_queued htake hkind hwork (htake.isQueued.congr ?_ ?_) rfl)
    · rw [hkept.queue, portUnit_updPort]
      split
      · next h => rw [h]
      · rfl
    · rw [hkept.session, portUnit_updPort]
      split
      · next h => rw [h]
      · rfl
  · have hwork : admitWork p e s = (s, .wrongState) := by
      simp only [admitWork, hreq]
      exact if_neg fun h => hnot.elim (· h.1) fun hout => by rw [hout] at h; cases h.2
    exact congrArg _ (request_answered htake hkind hwork .rfl)
  · have hwork : evictWork p e s = (s, .wrongState) := by
      simp only [evictWork, hreq]
      split
      · rfl
      · next hne => rw [hnot.resolve_left hne]
    exact congrArg _ (request_answered htake hkind hwork .rfl)
  · have hwork : evictWork p e s = (updPort q (fun u => { u with suppression := true }) s, .done .none) := by
      simp only [evictWork, hreq, hne, hfenced, if_false]
    refine congrArg _ (request_answered_of_queued htake hkind hwork (htake.isQueued.congr ?_ ?_) rfl) <;>
      rw [portUnit_updPort_ne _ _ (Ne.symm hne)]
  · have hwork : evictWork p e s = (takeEviction q s, .done .none) := by
      simp only [evictWork, hreq, hne, honline, if_false]
    have hgone : NoticesOnly (dropWaitingFormat q (updPort q (fun u =>
        unitTeardown { u with state := .fenced, session := u.session + 1#16, queue := [], suppression := true }) s))
        (updPort q (fun u =>
          unitTeardown { u with state := .fenced, session := u.session + 1#16, queue := [], suppression := true }) s) :=
      .of_ports (by rw [dropWaitingFormat_eq])
    have hkept := (raiseTo_notices q .portFenced _ p).trans ((raiseOthers_notices q .peerLost _ p).trans (hgone p))
    have hrun := request_answered_of_queued htake hkind hwork
      (htake.isQueued.congr (hkept.queue.trans (by rw [portUnit_updPort_ne _ _ (Ne.symm hne)]))
        (hkept.session.trans (by rw [portUnit_updPort_ne _ _ (Ne.symm hne)])))
      (by simp [takeEviction, dropWaitingFormat_eq])
    refine (congrArg _ hrun).trans ?_
    rw [takeEviction, dropWaitingFormat_eq]
    rfl

end Sys2Proof.Machine
end

section
/-! Admission by the link, the millisecond tick, loss, and the parts of a teardown (R88, R125, R146 to R152). -/

namespace Sys2Proof.Machine

/-! ## Changes of one port unit -/

/-- A change of a port unit is known by what it makes of the unit that stands there. -/
theorem updPort_congr {p : Port} {g h : PortUnit → PortUnit} {s : State} (heq : g (portUnit s p) = h (portUnit s p)) :
    updPort p g s = updPort p h s := by
  unfold updPort
  rw [show g (fourGet s.ports p) = h (fourGet s.ports p) from heq]

theorem updPort_eq_self {p : Port} {g : PortUnit → PortUnit} {s : State} (h : g (portUnit s p) = portUnit s p) :
    updPort p g s = s :=
  (updPort_congr (h := id) h).trans (by cases p <;> rfl)

theorem doWhen_of {b : Bool} (g : State → State) (s : State) (h : b = true) : doWhen b g s = g s := if_pos h

theorem doWhen_of_not {b : Bool} (g : State → State) (s : State) (h : b ≠ true) : doWhen b g s = s := if_neg h

/-! ## Admission by the link (R147 to R150) -/

theorem persistenceDue_iff (u : PortUnit) : persistenceDue u = true ↔ u.persistence + 1 = 100 := decide_eq_true_iff

theorem mayJudge_iff (u : PortUnit) : mayJudge u = true ↔ u.judged = false ∧ u.state ≠ .down := by
  simp [mayJudge]

/-- The hundredth steady millisecond, judged in one event (R146, R148, R149). -/
theorem judgeSteady_eq (p : Port) (s : State) :
    judgeSteady p s =
      if (portUnit s p).persistence + 1 = 100 then
        evalAdmission p (updPort p (fun u => { u with persistenceMet := true }) (updPort p unitSteady s))
      else updPort p unitSteady s := by
  unfold judgeSteady doWhen
  simp only [persistenceDue_iff]
  rfl

/-- Settles O32: the five conditions, the first symbol by the port's state, and persistence by its count. -/
theorem admissionFollowsTheLink : Obligations.AdmissionFollowsTheLink := by
  refine ⟨fun s p => ⟨fun h1 h2 h3 h4 h5 => ?_, fun hnot => ?_⟩, fun s p hpow => ⟨fun hdown => ?_, fun hdown => ?_,
    fun hjudged hdown hcount => ?_, fun hnot => ?_⟩⟩
  · exact evalAdmission_of_admissible ((admissible_iff _).mpr ⟨h1, h2, h3, h4, h5⟩)
  · refine evalAdmission_of_not fun hadmit => ?_
    obtain ⟨h1, h2, h3, h4, h5⟩ := (admissible_iff _).mp hadmit
    rcases hnot with h | h | h | h | ⟨hprivilege, hauto⟩
    · exact h h1
    · exact absurd (h2.symm.trans h) (by decide)
    · exact absurd (h3.symm.trans h) (by decide)
    · exact absurd (h4.symm.trans h) (by decide)
    · exact h5.elim hprivilege fun h => absurd (h.symm.trans hauto) (by decide)
  · exact congrArg _ ((if_pos hpow).trans (updPort_congr (g := unitFirstSymbol) (h := fun u => { u with
      state := .fenced, quiet := 0, persistence := 0, persistenceMet := false, symbolSeen := true }) (if_pos hdown)))
  · exact congrArg _ ((if_pos hpow).trans (updPort_eq_self (g := unitFirstSymbol) (if_neg hdown)))
  · refine congrArg _ ((if_pos hpow).trans ((doWhen_of _ _ ?_).trans ?_))
    · rw [Bool.and_eq_true, mayJudge_iff, persistenceDue_iff]
      exact ⟨⟨hjudged, hdown⟩, hcount⟩
    · have hsteady : updPort p (fun u => { u with persistenceMet := true }) (updPort p unitSteady s) =
          updPort p (fun u => { u with
            quiet := 0, persistence := 100, persistenceMet := true, symbolSeen := false }) s := by
        rw [updPort_updPort]
        refine updPort_congr ?_
        simp only [unitSteady, hcount]
        rfl
      rw [judgeAhead, judgeSteady_eq, if_pos hcount, hsteady]
      rfl
  · refine congrArg _ ((if_pos hpow).trans (doWhen_of_not _ _ ?_))
    rw [ne_eq, Bool.and_eq_true, mayJudge_iff, persistenceDue_iff]
    rintro ⟨⟨hjudged, hdown⟩, hcount⟩
    rcases hnot with h | h | h
    · exact absurd (h.symm.trans hjudged) (by decide)
    · exact hdown h
    · exact h hcount

/-! ## The tick (R146, R148, R177) -/

/-- A tick at a port unit, with the loss window in force there (R146). -/
theorem tickPort_eq (y : Four Bool) (s : State) (p : Port) :
    tickPort y s p =
      if (portUnit s p).judged = true then updPort p (unitJudged false) s
      else if (portUnit s p).state = .down then s
      else if fourGet y p = true ∨ (portUnit s p).symbolSeen = true then
        (if (portUnit s p).persistence + 1 = 100 then
          evalAdmission p (updPort p (fun u => { u with persistenceMet := true }) (updPort p unitSteady s))
         else updPort p unitSteady s)
      else if lossWindow s p ≤ (portUnit s p).quiet + 1 then takeLoss p (updPort p unitQuiet s)
      else updPort p unitQuiet s := by
  have hquiet : judgeQuiet p s =
      if lossWindow s p ≤ (portUnit s p).quiet + 1 then takeLoss p (updPort p unitQuiet s)
      else updPort p unitQuiet s := by
    unfold judgeQuiet doWhen lossDue
    simp only [decide_eq_true_eq]
  rw [← judgeSteady_eq, ← hquiet]
  rfl

/-- The loss window in force is read from the changes handed over and the parameters alone. -/
theorem lossWindow_congr {s t : State} (hc : t.mif.changes = s.mif.changes) (hp : t.params = s.params) (p : Port) :
    lossWindow t p = lossWindow s p := by
  unfold lossWindow
  rw [hc, hp]

/-- What the ticks at the ports leave: all but the port units and the FORMAT that waits. -/
theorem tickPorts_frame (y : Four Bool) (l : List Port) (s : State) :
    l.foldl (tickPort y) s =
      { s with
        ports := (l.foldl (tickPort y) s).ports,
        mif := { s.mif with formatWaits := (l.foldl (tickPort y) s).mif.formatWaits } } := by
  induction l generalizing s with
  | nil => rfl
  | cons p rest ih =>
    have hone : tickPort y s p =
        { s with
          ports := (tickPort y s p).ports,
          mif := { s.mif with formatWaits := (tickPort y s p).mif.formatWaits } } := by
      rw [← tickPort_mif y s p]
      obtain ⟨h1, h2, h3, h4, h5, h6, h7, h8, h9, h10, h11, h12, h13⟩ := tickPort_frame y s p
      conv_rhs => rw [← h1, ← h2, ← h3, ← h4, ← h5, ← h6, ← h7, ← h8, ← h9, ← h10, ← h11, ← h12, ← h13]
    have hmany := ih (tickPort y s p)
    rw [List.foldl_cons]
    generalize (rest.foldl (tickPort y) (tickPort y s p)).ports = ports at *
    generalize (rest.foldl (tickPort y) (tickPort y s p)).mif.formatWaits = waits at *
    rw [hmany, hone]

/-- Settles O33: each port judges as `tickPort` says, and the counts go on. -/
theorem millisecondTickJudgesLinks : Obligations.MillisecondTickJudgesLinks := by
  intro s y hpow judges t
  have hone : ∀ l : List Port, ∀ p, tickPort y (l.foldl (tickPort y) s) p = judges (l.foldl (tickPort y) s) p := by
    intro l p
    have hframe := tickPorts_frame y l s
    rw [tickPort_eq, lossWindow_congr (s := s) (by rw [hframe]) (by rw [hframe])]
    rfl
  have hports : allPorts.foldl (tickPort y) s = t := by
    have h0 := hone [] .p0
    have h1 := hone [.p0] .p1
    have h2 := hone [.p0, .p1] .p2
    have h3 := hone [.p0, .p1, .p2] .p3
    simp only [List.foldl_cons, List.foldl_nil] at h0 h1 h2 h3
    change tickPort y (tickPort y (tickPort y (tickPort y s .p0) .p1) .p2) .p3 = t
    rw [h3, h2, h1, h0]
  have hframe := tickPorts_frame y allPorts s
  refine congrArg _ ((if_pos hpow).trans ?_)
  rw [tick, hframe, hports]
  rfl

/-! ## Loss (R148, R151) -/

/-- Settles O34: the loss by the port's state, and LOSS by whether the quiet millisecond gives it. -/
theorem lossTakesPortDown : Obligations.LossTakesPortDown := by
  refine ⟨fun s p => ?_, fun s p hpow => ?_⟩
  · intro down
    have hdown : ∀ u, unitDown s.mif.silenced u = down u := fun u => by
      simp [unitDown, unitAttn, down]
    refine ⟨fun h => ?_, fun h => ?_, fun h => ?_⟩
    · unfold takeLoss
      rw [h]
    · unfold takeLoss
      rw [h]
      exact updPort_congr (hdown _)
    · unfold takeLoss
      rw [h, dropWaitingFormat_eq]
      simp only [hdown]
      rfl
  · intro u gives
    have hdue : mayLose s p = true ↔ gives := by
      simp [mayLose, mayJudge_iff, lossDue, gives, u, and_assoc]
    refine ⟨fun h => ?_, fun h => ?_⟩
    · refine congrArg _ ((if_pos hpow).trans ((doWhen_of _ _ (hdue.mpr h)).trans ?_))
      have hloss : lossDue (lossWindow s p) (portUnit s p) = true := decide_eq_true h.2.2.2
      rw [judgeAhead, judgeQuiet, doWhen_of _ _ hloss]
      rfl
    · exact congrArg _ ((if_pos hpow).trans (doWhen_of_not _ _ fun hm => h (hdue.mp hm)))

/-! ## The parts of a teardown (R88, R125, R152) -/

theorem portBusy_iff (s : State) (p : Port) : portBusy s p = true ↔ ∃ e, s.ixc.inProgress = some (.port p e) := by
  unfold portBusy
  split
  · next q e h => simp [h]
  · next hno => simp only [Bool.false_eq_true, false_iff]; exact fun ⟨e, he⟩ => hno p e he

theorem bteBusy_iff (s : State) : bteBusy s = true ↔ ∃ n, s.ixc.inProgress = some (.item n) := by
  unfold bteBusy
  split
  · next n h => simp [h]
  · next hno => simp only [Bool.false_eq_true, false_iff]; exact fun ⟨n, hn⟩ => hno n hn

/-- The container table with a port's OPEN containers closed, record by record (R88). -/
theorem tableGet_closeAllOwned (p : Port) {t : List (Nat × ContainerRec)} (h : tableWf ContainerRec.zero t = true)
    (c : Nat) : tableGet ContainerRec.zero (closeAllOwned p t) c = closeOwned p (tableGet ContainerRec.zero t c) :=
  tableGet_map _ _ _ _ (by simp [closeOwned, ContainerRec.zero]) h

/-- Index memory with a port's OPEN containers closed: the table, and its check where it changed (R69, R88). -/
theorem memClosed_containers (p : Port) (m : IndexMemory) :
    (memClosed p m).containers = closeAllOwned p m.containers ∧
      ((memClosed p m).containers ≠ m.containers → (memClosed p m).containersCheck = areaCheck (memClosed p m).containers) ∧
      ((memClosed p m).containers = m.containers → memClosed p m = m) := by
  unfold memClosed
  split
  · next h => exact ⟨h.symm, fun hne => absurd rfl hne, fun _ => rfl⟩
  · next h => exact ⟨rfl, fun _ => rfl, fun hsame => absurd hsame h⟩

theorem memClosed_frame (p : Port) (m : IndexMemory) :
    (memClosed p m).slots = m.slots ∧ (memClosed p m).header = m.header ∧ (memClosed p m).settings = m.settings ∧
      (memClosed p m).settingsCheck = m.settingsCheck := by
  unfold memClosed
  split <;> exact ⟨rfl, rfl, rfl, rfl⟩

theorem contextOf_zero (p : Port) : contextOf p Context.zero = false := rfl

/-- The held operation given up where it is for a context that a test names (R122, R125). -/
theorem withdrawHeld_eq (gone : Nat → Bool) (s : State) :
    withdrawHeld gone s =
      { s with bte := { s.bte with
          held := match s.bte.held with
            | some n => if gone n = true then none else some n
            | none => none } } := by
  unfold withdrawHeld
  split
  · next n hn =>
    by_cases hg : gone n = true <;> simp [hn, hg]; rw [← hn]
  · next hn => simp [hn]; rw [← hn]

/-- Settles O35: each part runs where it is due and its block is free, and is reported. -/
theorem teardownPartsAreReported : Obligations.TeardownPartsAreReported := by
  refine ⟨fun s p hpow hwf => ⟨fun hdue hfree => ?_, fun hnot => ?_⟩, fun s p hpow hwf => ?_⟩
  · have hmay : ctuMayTear s p = true := by
      have hidle : portBusy s p = false := by
        rw [← Bool.not_eq_true, portBusy_iff]
        exact fun ⟨e, he⟩ => hfree e he
      rw [ctuMayTear, hdue, hidle]
      rfl
    obtain ⟨htable, hcheck, hsame⟩ := memClosed_containers p s.mem
    obtain ⟨hslots, hheader, hsettings, hsettingsCheck⟩ := memClosed_frame p s.mem
    refine ⟨if s.mif.indexState = .ready then memClosed p s.mem else s.mem,
      congrArg _ ((if_pos hpow).trans (doWhen_of _ _ hmay)), fun hready => if_neg hready, fun hready c => ?_, ?_⟩
    · rw [if_pos hready, htable]
      exact tableGet_closeAllOwned p ((IndexMemory.wf_iff _).mp hwf).2.1 c
    · split
      · exact ⟨hcheck, hsame, hslots, hheader, hsettings, hsettingsCheck⟩
      · exact ⟨fun hne => absurd rfl hne, fun _ => rfl, rfl, rfl, rfl, rfl⟩
  · refine congrArg _ ((if_pos hpow).trans (doWhen_of_not _ _ ?_))
    rw [ctuMayTear, ne_eq, Bool.and_eq_true, Bool.not_eq_true', ← Bool.not_eq_true, portBusy_iff]
    exact fun ⟨hdue, hfree⟩ => hnot.elim (fun h => absurd (hdue.symm.trans h) (by decide)) hfree
  · intro mine
    refine ⟨fun hdue hfree => ?_, fun hnot => ?_⟩
    · have hmay : bteMayTear s p = true := by
        have hidle : bteBusy s = false := by
          rw [← Bool.not_eq_true, bteBusy_iff]
          exact fun ⟨n, hn⟩ => hfree n hn
        rw [bteMayTear, hdue, hidle]
        rfl
      refine ⟨tableMap Context.zero (fun _ c => if contextOf p c = true then withheldContext p else c) s.bte.contexts,
        congrArg _ ((if_pos hpow).trans ((doWhen_of _ _ hmay).trans ?_)), fun n => ?_⟩
      · rw [takeBteTeardown, bteTeardownWork, withdrawHeld_eq]
        rfl
      · exact tableGet_map _ (fun _ c => if contextOf p c = true then withheldContext p else c) _ _
          (if_neg (by rw [contextOf_zero]; decide)) hwf
    · refine congrArg _ ((if_pos hpow).trans (doWhen_of_not _ _ ?_))
      rw [bteMayTear, ne_eq, Bool.and_eq_true, Bool.not_eq_true', ← Bool.not_eq_true, bteBusy_iff]
      exact fun ⟨hdue, hfree⟩ => hnot.elim (fun h => absurd (hdue.symm.trans h) (by decide)) hfree

end Sys2Proof.Machine
end

section
/-! Buckets, slots as stored and as verified, the search, and the arbiter's turns (R2, R6, R7, R11 to R21, R183). -/

namespace Sys2Proof.Machine

/-! ## Buckets (R2) -/

section
variable (h a : BitVec 32) (rest : BitVec 192)

/-- A fingerprint by its bytes 0 to 3, its bytes 4 to 7 and the rest. -/
def fingerprintOf : Fingerprint := BitVec.ofNat 256 (h.toNat * 2 ^ 224 + a.toNat * 2 ^ 192 + rest.toNat)

theorem fingerprintOf_toNat : (fingerprintOf h a rest).toNat = h.toNat * 2 ^ 224 + a.toNat * 2 ^ 192 + rest.toNat := by
  have hh := h.isLt
  have ha := a.isLt
  have hr := rest.isLt
  rw [fingerprintOf, BitVec.toNat_ofNat, Nat.mod_eq_of_lt (by omega)]

theorem homeBucket_fingerprintOf (bc : Nat) : homeBucket bc (fingerprintOf h a rest) = h.toNat % bc := by
  have ha := a.isLt
  have hr := rest.isLt
  have hfirst : (fingerprintOf h a rest).toNat / 2 ^ 224 = h.toNat := by
    rw [fingerprintOf_toNat]
    omega
  rw [homeBucket, hfirst]

theorem candidateBucket_fingerprintOf (bc : Nat) : candidateBucket bc (fingerprintOf h a rest) = a.toNat % bc := by
  have ha := a.isLt
  have hr := rest.isLt
  have hsecond : (fingerprintOf h a rest).toNat / 2 ^ 192 % 2 ^ 32 = a.toNat := by
    rw [fingerprintOf_toNat]
    omega
  rw [candidateBucket, hsecond]

end

/-- The two buckets differ (R2). -/
theorem homeBucket_ne_alternateBucket {bc : Nat} (hbc : 2 ≤ bc) (fp : Fingerprint) :
    homeBucket bc fp ≠ alternateBucket bc fp := by
  have hlt : homeBucket bc fp < bc := Nat.mod_lt _ (by omega)
  unfold alternateBucket
  split
  · generalize homeBucket bc fp = b at *
    by_cases hlast : b + 1 = bc
    · rw [hlast, Nat.mod_self]
      omega
    · rw [Nat.mod_eq_of_lt (by omega)]
      omega
  · next hne => exact fun heq => hne heq.symm

/-- Settles O36: the fields of the fingerprint give the buckets. -/
theorem fingerprintHasTwoBuckets : Obligations.FingerprintHasTwoBuckets := by
  refine ⟨fun bc h a rest => ⟨homeBucket_fingerprintOf h a rest bc, ?_, fun hbc => homeBucket_ne_alternateBucket hbc _⟩,
    fun _ => rfl, fun _ _ => rfl⟩
  have hhome := homeBucket_fingerprintOf h a rest bc
  have hcandidate := candidateBucket_fingerprintOf h a rest bc
  unfold fingerprintOf at hhome hcandidate
  rw [alternateBucket, hhome, hcandidate]

/-! ## Slots as stored (R6, R13, R183) -/

/-- The codes 1 to 5 name the states other than FREE. -/
theorem entryOfCode_inUse {b : Byte} (h1 : 1 ≤ b.toNat) (h5 : b.toNat ≤ 5) :
    ∃ st, entryOfCode b = some st ∧ st ≠ .free := by
  have hcases : b = 1#8 ∨ b = 2#8 ∨ b = 3#8 ∨ b = 4#8 ∨ b = 5#8 := by bv_omega
  rcases hcases with rfl | rfl | rfl | rfl | rfl
  · exact ⟨.pending, rfl, by decide⟩
  · exact ⟨.stored, rfl, by decide⟩
  · exact ⟨.zero, rfl, by decide⟩
  · exact ⟨.pinned, rfl, by decide⟩
  · exact ⟨.suspect, rfl, by decide⟩

/-- A code above 5 names no state. -/
theorem entryOfCode_unlisted {b : Byte} (h : 5 < b.toNat) : entryOfCode b = none := by
  have hle : ∀ st, (entryCode st).toNat ≤ 5 := fun st => by cases st <;> decide
  refine List.find?_eq_none.mpr fun st _ heq => ?_
  have hb : entryCode st = b := by simpa using heq
  rw [← hb] at h
  exact absurd (hle st) (Nat.not_le.mpr h)

theorem imageHolds_of_free {im : SlotImage} (h : imageState im = some .free) :
    imageHolds im = true ↔ im = SlotImage.free := by
  unfold imageHolds
  rw [h]
  exact decide_eq_true_iff

theorem imageHolds_of_listed {im : SlotImage} {st : EntryState} (h : imageState im = some st) (hst : st ≠ .free) :
    imageHolds im = true ↔ im.check = imageCheck im := by
  unfold imageHolds
  rw [h]
  cases st with
  | free => exact absurd rfl hst
  | _ => exact decide_eq_true_iff

theorem imageHolds_of_unlisted {im : SlotImage} (h : imageState im = none) : imageHolds im = false := by
  unfold imageHolds
  rw [h]

theorem imageCheck_eq (im : SlotImage) :
    imageCheck im = crc16 ([im.state] ++ beBytes 32 im.fp.toNat ++ beBytes 2 im.refcount.toNat ++
      locationBytes im.loc ++ [im.ns] ++ beBytes 2 im.claim.toNat ++ beBytes 5 im.zeroSince.toNat) := by
  unfold imageCheck
  rfl

/-- A fresh check is the check of the image that carries it. -/
theorem imageCheck_imageFresh (im : SlotImage) : imageCheck (imageFresh im) = imageCheck im := by
  rw [imageCheck_eq, imageCheck_eq]
  rfl

/-- A record of a state other than FREE holds once its check is written anew (R6, R13). -/
theorem imageHolds_imageFresh_of_listed {im : SlotImage} {st : EntryState} (h : imageState im = some st)
    (hst : st ≠ .free) : imageHolds (imageFresh im) = true :=
  (imageHolds_of_listed (im := imageFresh im) h hst).mpr (imageCheck_imageFresh im).symm

theorem imageState_free_iff (im : SlotImage) : imageState im = some .free ↔ im.state = 0x00#8 := by
  constructor
  · intro h
    rcases Nat.lt_or_ge 5 im.state.toNat with hgt | hle
    · rw [imageState, entryOfCode_unlisted hgt] at h
      cases h
    · rcases Nat.eq_zero_or_pos im.state.toNat with hzero | hpos
      · exact BitVec.eq_of_toNat_eq hzero
      · obtain ⟨st, hst, hne⟩ := entryOfCode_inUse hpos hle
        rw [imageState, hst] at h
        exact absurd (Option.some.inj h) hne
  · intro h
    rw [imageState, h]
    rfl

/-- When an image with a fresh check holds (R6, R13). -/
theorem imageHolds_imageFresh (im : SlotImage) :
    imageHolds (imageFresh im) = (decide (imageState im ≠ none) &&
      (decide (im.state ≠ 0x00#8) || decide (imageFresh im = SlotImage.free))) := by
  have hsame : imageState (imageFresh im) = imageState im := rfl
  cases hst : imageState im with
  | none => simp [imageHolds_of_unlisted (hsame.trans hst)]
  | some st =>
    by_cases hfree : st = .free
    · subst hfree
      have hcode := (imageState_free_iff im).mp hst
      rw [Bool.eq_iff_iff, imageHolds_of_free (hsame.trans hst)]
      simp [hcode]
    · have hcode : im.state ≠ 0x00#8 := fun h =>
        hfree (Option.some.inj (hst.symm.trans ((imageState_free_iff im).mpr h)))
      simp [imageHolds_imageFresh_of_listed hst hfree, hcode]

theorem imageState_of_code {im : SlotImage} {st : EntryState} (h : im.state = entryCode st) :
    imageState im = some st := by
  rw [imageState, h]
  cases st <;> rfl

/-! ## Slots as verified (R11, R13 to R16) -/

/-- The position query gives a record in use at the slot, and none where there is none (R15, R44). -/
theorem positionQuery_some {s : State} {n : Nat} {x : Nat × ClaimRec} (h : positionQuery s n = some x) :
    x ∈ s.clu.claims ∧ x.2.phase ≠ .free ∧ x.2.position = n := by
  refine ⟨List.mem_of_find?_eq_some h, ?_⟩
  simpa [claimInUse] using List.find?_some h

theorem positionQuery_none {s : State} {n : Nat} (h : positionQuery s n = none) :
    ∀ x ∈ s.clu.claims, x.2.phase ≠ .free → x.2.position ≠ n := by
  intro x hx huse
  have hfails := List.find?_eq_none.mp h x hx
  simpa [claimInUse, huse] using hfails

/-- The slot fails verification (R13). -/
def Fails (s : State) (n : Nat) : Prop :=
  imageState (slotGet s n) ≠ some .suspect ∧ imageHolds (slotGet s n) = false

theorem verifySlot_claimed {s : State} {n : Nat} {x : Nat × ClaimRec} (h : Fails s n)
    (hx : positionQuery s n = some x) : verifySlot n s = slotPut n (imagePending x.2.fp x.1) s := by
  obtain ⟨hsuspect, hholds⟩ := h
  unfold verifySlot
  rw [if_neg (fun h => h.elim hsuspect fun h => absurd (h.symm.trans hholds) (by decide)), hx]

theorem verifySlot_unclaimed {s : State} {n : Nat} (h : Fails s n) (hx : positionQuery s n = none) :
    verifySlot n s = repairUnclaimed n s := by
  obtain ⟨hsuspect, hholds⟩ := h
  unfold verifySlot
  rw [if_neg (fun h => h.elim hsuspect fun h => absurd (h.symm.trans hholds) (by decide)), hx]

section
variable {s : State} {n : Nat}

theorem repairUnclaimed_pending (hst : imageState (slotGet s n) = some .pending)
    (hlen : (slotGet s n).loc.length = 0#32) :
    repairUnclaimed n s =
      raiseAll .suspectFound (setOccupancy (s.ixc.occupancy - 1) (slotPut n SlotImage.free s)) := by
  unfold repairUnclaimed
  simp only [hst, hlen, if_true]

theorem repairUnclaimed_free (hst : imageState (slotGet s n) = some .free)
    (hlen : (slotGet s n).loc.length = 0#32) :
    repairUnclaimed n s = raiseAll .suspectFound (slotPut n SlotImage.free s) := by
  unfold repairUnclaimed
  simp only [hst, hlen, if_true]

theorem repairUnclaimed_freeLocated (hst : imageState (slotGet s n) = some .free)
    (hlen : (slotGet s n).loc.length ≠ 0#32) :
    repairUnclaimed n s =
      raiseAll .suspectFound (setOccupancy (s.ixc.occupancy + 1) (slotPut n (imageSuspect (slotGet s n)) s)) := by
  unfold repairUnclaimed
  simp only [hst, hlen, if_false]

theorem repairUnclaimed_other (hfree : imageState (slotGet s n) ≠ some .free)
    (hpending : imageState (slotGet s n) ≠ some .pending ∨ (slotGet s n).loc.length ≠ 0#32) :
    repairUnclaimed n s = raiseAll .suspectFound (slotPut n (imageSuspect (slotGet s n)) s) := by
  unfold repairUnclaimed
  dsimp only
  split
  · next hst => rw [if_neg (hpending.resolve_left fun h => h hst)]
  · next hst => exact absurd hst hfree
  · rfl

end

/-! ## The search (R7, R16, R17) -/

theorem searchFrom_nil (fp : Fingerprint) (s : State) : searchFrom fp [] s = (s, none) := by
  unfold searchFrom
  rfl

theorem slotMatches_iff (s : State) (fp : Fingerprint) (n : Nat) :
    slotMatches s fp n = true ↔ imageState (slotGet s n) ≠ some .free ∧ (slotGet s n).fp = fp := by
  rw [slotMatches, Bool.and_eq_true, decide_eq_true_iff, decide_eq_true_iff]
  rfl

theorem slotMatches_eq_false_iff (s : State) (fp : Fingerprint) (n : Nat) :
    slotMatches s fp n = false ↔ imageState (slotGet s n) = some .free ∨ (slotGet s n).fp ≠ fp := by
  rw [← Bool.not_eq_true, slotMatches_iff]
  tauto

theorem searchFrom_cons_match {s : State} {fp : Fingerprint} {n : Nat} (rest : List Nat)
    (h : slotMatches (verifySlot n s) fp n = true) : searchFrom fp (n :: rest) s = (verifySlot n s, some n) := by
  rw [searchFrom, if_pos h]

theorem searchFrom_cons_miss {s : State} {fp : Fingerprint} {n : Nat} (rest : List Nat)
    (h : slotMatches (verifySlot n s) fp n = false) :
    searchFrom fp (n :: rest) s = searchFrom fp rest (verifySlot n s) := by
  rw [searchFrom, if_neg (Bool.not_eq_true _ ▸ h)]

/-- Settles O37: the image's states, the repair by state and location, and the search's first match. -/
theorem slotsAreVerifiedAndSearched : Obligations.SlotsAreVerifiedAndSearched := by
  refine ⟨fun im => ⟨fun hfree => ?_, fun h1 h5 => ?_, fun hgt => ?_, imageHolds_imageFresh im⟩, fun fp c => ⟨rfl, ?_⟩,
    fun st fp n l ns z hst => ?_, fun s n => ⟨fun x => positionQuery_some, positionQuery_none⟩, fun s n => ?_,
    fun s fp => searchFrom_nil fp s, fun s fp n rest => ⟨fun hst hfp => ?_, fun hmiss => ?_⟩, fun s fp => ?_⟩
  · exact imageHolds_of_free ((imageState_free_iff im).mpr hfree)
  · obtain ⟨st, hst, hne⟩ := entryOfCode_inUse h1 h5
    rw [imageHolds_of_listed hst hne, imageCheck_eq]
  · exact imageHolds_of_unlisted (entryOfCode_unlisted hgt)
  · exact imageHolds_imageFresh_of_listed (st := .pending) (imageState_of_code rfl) (by decide)
  · rcases hst with rfl | rfl | rfl
    · exact ⟨rfl, imageHolds_imageFresh_of_listed (st := .stored) (imageState_of_code rfl) (by decide)⟩
    · exact ⟨rfl, imageHolds_imageFresh_of_listed (st := .zero) (imageState_of_code rfl) (by decide)⟩
    · exact ⟨rfl, imageHolds_imageFresh_of_listed (st := .pinned) (imageState_of_code rfl) (by decide)⟩
  · refine ⟨verifySlot_sound, fun x hfails hx => verifySlot_claimed hfails hx, fun hfails hx => ?_⟩
    rw [verifySlot_unclaimed hfails hx]
    exact ⟨repairUnclaimed_pending, repairUnclaimed_free, repairUnclaimed_freeLocated, repairUnclaimed_other⟩
  · exact searchFrom_cons_match rest ((slotMatches_iff _ _ _).mpr ⟨hst, hfp⟩)
  · exact searchFrom_cons_miss rest ((slotMatches_eq_false_iff _ _ _).mpr hmiss)
  · intro slots hsound
    have hsearch : searchIndex fp s = (s, slots.find? (slotMatches s fp)) := searchFrom_sound hsound
    rw [hsearch]
    refine ⟨rfl, fun n hfound => ?_, fun hnone n hn => ?_⟩
    · obtain ⟨hmatch, before, after, heq, hbefore⟩ := List.find?_eq_some_iff_append.mp hfound
      obtain ⟨hst, hfp⟩ := (slotMatches_iff s fp n).mp hmatch
      exact ⟨hst, hfp, before, after, heq, fun m hm =>
        (slotMatches_eq_false_iff s fp m).mp (by simpa using hbefore m hm)⟩
    · exact (slotMatches_eq_false_iff s fp n).mp (by simpa using List.find?_eq_none.mp hnone n hn)

/-! ## The arbiter's order (R18, R19) -/

/-- The requesters' numbers in the cyclic order (R19). -/
def requesterNumber : Requester → Nat
  | .pu .p0 => 0 | .pu .p1 => 1 | .pu .p2 => 2 | .pu .p3 => 3 | .bte => 4 | .clu => 5 | .swp => 6

/-- How far a requester stands behind the last one served (R19). -/
def requesterDistance (last r : Requester) : Nat := (requesterNumber r + 6 - requesterNumber last) % 7

theorem mem_requesterOrder (r : Requester) : r ∈ requesterOrder := by
  cases r with
  | pu p => cases p <;> decide
  | bte => decide
  | clu => decide
  | swp => decide

/-- The arbiter's order has every requester (R19). -/
theorem mem_requestersAfter (last r : Requester) : r ∈ requestersAfter last := by
  have hall : ∀ last ∈ requesterOrder, ∀ r ∈ requesterOrder, r ∈ requestersAfter last := by decide
  exact hall last (mem_requesterOrder last) r (mem_requesterOrder r)

/-- The arbiter's order has the nearer before the farther (R19). -/
theorem requestersAfter_rising (last : Requester) :
    (requestersAfter last).Pairwise (fun a b => requesterDistance last a ≤ requesterDistance last b) := by
  have hall : ∀ last ∈ requesterOrder,
      (requestersAfter last).Pairwise (fun a b => requesterDistance last a ≤ requesterDistance last b) := by decide
  exact hall last (mem_requesterOrder last)

theorem mayGrant_iff (s : State) :
    mayGrant s = true ↔ s.mif.indexState = .ready ∧ s.ixc.inProgress = none ∧ s.mif.formatWaits = none ∧
      s.mif.restartTaken = false := by
  simp [mayGrant, and_assoc]

/-- The requester served next holds an operation, and none that holds one stands nearer (R19). -/
theorem nextRequester_nearest {s : State} {r : Requester} (h : nextRequester s = some r) :
    holdsOperation s r = true ∧ ∀ q, holdsOperation s q = true →
      requesterDistance s.ixc.lastServed r ≤ requesterDistance s.ixc.lastServed q := by
  unfold nextRequester at h
  split at h
  · obtain ⟨hholds, before, after, heq, hbefore⟩ := List.find?_eq_some_iff_append.mp h
    refine ⟨hholds, fun q hq => ?_⟩
    have hmem := mem_requestersAfter s.ixc.lastServed q
    have hrising := requestersAfter_rising s.ixc.lastServed
    rw [heq] at hmem hrising
    rcases List.mem_append.mp hmem with hin | hin
    · have hfails := hbefore q hin
      simp [hq] at hfails
    · rcases List.mem_cons.mp hin with rfl | hlater
      · exact Nat.le_refl _
      · exact (List.pairwise_cons.mp (List.pairwise_append.mp hrising).2.1).1 q hlater
  · cases h

theorem nextRequester_none {s : State} (h : nextRequester s = none) (hgrant : mayGrant s = true) (r : Requester) :
    holdsOperation s r = false := by
  unfold nextRequester at h
  rw [if_pos hgrant] at h
  simpa using List.find?_eq_none.mp h r (mem_requestersAfter s.ixc.lastServed r)

/-- A port holds an operation while a request of it waits (R18). -/
theorem firstWaiting_some (s : State) (p : Port) (e : QEntry) :
    firstWaiting s p = some e ↔ e.phase = .waiting ∧ ∃ before after, (portUnit s p).queue = before ++ e :: after ∧
      ∀ x ∈ before, x.phase ≠ .waiting := by
  simp [firstWaiting, List.find?_eq_some_iff_append]

theorem firstWaiting_none (s : State) (p : Port) :
    firstWaiting s p = none ↔ ∀ x ∈ (portUnit s p).queue, x.phase ≠ .waiting := by
  simp [firstWaiting]

theorem holdsOperation_pu (s : State) (p : Port) :
    holdsOperation s (.pu p) = true ↔ ∃ e ∈ (portUnit s p).queue, e.phase = .waiting := by
  simp [holdsOperation, firstWaiting]

theorem holdsOperation_swp (s : State) :
    holdsOperation s .swp = true ↔ 1 ≤ s.swp.allowance ∧ s.params.sweepMode ≠ .off ∧ s.mif.indexState = .ready := by
  simp [holdsOperation, sweeperBehind, and_assoc]

/-! ## Turns that change nothing, and grants (log 2, log 3) -/

section
variable {s : State} {grant : State → Option (State × Turn)} {finish : Turn → State → State} {mine : Turn → Bool}
  {st : OpStep}

/-- A turn that is not granted changes nothing. -/
theorem turn_notGranted (hst : st ≠ .finish) (h : grant s = none) :
    whenPowered s (runTurn grant finish mine st) = s := by
  have hrun : runTurn grant finish mine st s = s := by
    cases st with
    | whole => simp only [runTurn, h]
    | grant => simp only [runTurn, h]
    | finish => exact absurd rfl hst
  rw [whenPowered, hrun, ite_self]

/-- The end of a turn that is not in progress changes nothing. -/
theorem turn_notMine (hst : st = .finish) (h : ∀ t, s.ixc.inProgress = some t → mine t = false) :
    whenPowered s (runTurn grant finish mine st) = s := by
  have hrun : runTurn grant finish mine st s = s := by
    subst hst
    rw [runTurn]
    split
    · next t ht => rw [h t ht]; rfl
    · rfl
  rw [whenPowered, hrun, ite_self]

/-- The grant of a turn taken as an event of its own. -/
theorem turn_granted {g : State × Turn} (hst : st = .grant) (hpow : s.powered = true) (h : grant s = some g) :
    whenPowered s (runTurn grant finish mine st) = g.1 := by
  subst hst
  simp only [whenPowered, hpow, if_true, runTurn, h]

end

theorem grantPort_none {s : State} {p : Port} {k : Kind}
    (h : nextRequester s ≠ some (.pu p) ∨ ∀ e, firstWaiting s p = some e → e.kind ≠ k) : grantPort p k s = none := by
  unfold grantPort
  split
  · rfl
  · next e he => exact if_neg fun hgrant => h.elim (fun hn => hn hgrant.1) fun hn => hn e he hgrant.2

theorem isPortTurn_eq_false {s : State} {p : Port} {k : Kind}
    (h : ∀ e, s.ixc.inProgress = some (.port p e) → e.kind ≠ k) :
    ∀ t, s.ixc.inProgress = some t → isPortTurn p k t = false := by
  intro t ht
  unfold isPortTurn
  split
  · next q e =>
    by_cases hq : q = p
    · subst hq
      simp [h e ht]
    · simp [hq]
  · rfl

theorem grantBte_none {s : State} (h : nextRequester s ≠ some .bte) : grantBte s = none := by
  unfold grantBte
  split
  · rfl
  · exact if_neg h

theorem grantClu_none {s : State} {pick : Update → Option Turn}
    (h : nextRequester s ≠ some .clu ∨ ∀ u, s.clu.updates.head? = some u → pick u = none) :
    grantClu pick s = none := by
  unfold grantClu
  split
  · rfl
  · next u rest hu =>
    split
    · rfl
    · next t ht => exact if_neg (h.resolve_right fun hn => by
        have := hn u (by rw [hu]; rfl)
        rw [this] at ht
        cases ht)

theorem grantClu_some {s : State} {pick : Update → Option Turn} {u : Update} {t : Turn} {rest : List Update}
    (hnext : nextRequester s = some .clu) (hu : s.clu.updates = u :: rest) (ht : pick u = some t) :
    grantClu pick s = some (grantTurn .clu t { s with clu := { s.clu with updates := rest } }, t) := by
  simp only [grantClu, hu, ht, hnext, if_true]

theorem grantSweeper_none {s : State} (h : nextRequester s ≠ some .swp) : grantSweeper s = none := if_neg h

/-- A port's turn command runs the turn of its port and kind. -/
theorem exec_turnCommand {k : Kind} {p : Port} {st : OpStep} {c : Instr} (h : turnCommand k p st = some c) (s : State) :
    ∃ finish, exec c s = .next (whenPowered s (runTurn (grantPort p k) finish (isPortTurn p k) st)) := by
  unfold turnCommand at h
  split at h
  all_goals first
    | (cases h; exact ⟨_, rfl⟩)
    | exact absurd h (by simp)

/-- Settles O38: the order by distance, and each command by whether its turn is next or in progress. -/
theorem arbiterServesInTurn : Obligations.ArbiterServesInTurn := by
  refine ⟨fun s => ?_, fun s r t => ⟨rfl, rfl⟩, fun s p => ⟨firstWaiting_some s p, firstWaiting_none s p⟩,
    fun s p k st c hc => ?_, fun s st => ?_⟩
  · intro number distance
    have hdistance : ∀ r, distance r = requesterDistance s.ixc.lastServed r := fun r => by
      have hnumber : ∀ r, number r = requesterNumber r := fun r => by
        rcases r with p | _ | _ | _
        · cases p <;> rfl
        all_goals rfl
      simp only [distance, requesterDistance, hnumber]
    refine ⟨fun r hnext => ?_, fun hnone hready hidle hformat hrestart r => ?_, holdsOperation_pu s, ?_, ?_,
      holdsOperation_swp s⟩
    · obtain ⟨hready, hidle, hformat, hrestart⟩ := nextRequester_grants hnext
      simp only [hdistance]
      exact ⟨hready, hidle, hformat, hrestart, nextRequester_nearest hnext⟩
    · exact nextRequester_none hnone ((mayGrant_iff s).mpr ⟨hready, hidle, hformat, hrestart⟩) r
    · simp [holdsOperation, Option.isSome_iff_ne_none]
    · simp [holdsOperation]
  · obtain ⟨finish, hexec⟩ := exec_turnCommand hc s
    rw [hexec]
    refine ⟨fun hst hnot => congrArg _ (turn_notGranted hst (grantPort_none hnot)),
      fun hst hnot => congrArg _ (turn_notMine hst (isPortTurn_eq_false hnot)), fun e hst hpow hnext hfirst hkind => ?_⟩
    have hgrant : grantPort p k s = some (grantTurn (.pu p) (.port p e) s, .port p e) := by
      simp only [grantPort, hfirst, hnext, hkind, and_self, if_true]
    exact congrArg _ (turn_granted hst hpow hgrant)
  · intro may granted
    refine ⟨fun hst hnot => congrArg _ (turn_notGranted hst (grantBte_none hnot)),
      fun hst hnot => congrArg _ (turn_notMine hst fun t ht => ?_), fun n hmay hheld => ?_,
      fun hst hnot => congrArg _ (turn_notGranted hst (grantClu_none (hnot.imp_right fun hn u hu => ?_))),
      fun hst hnot => congrArg _ (turn_notMine hst fun t ht => ?_), fun n rest hmay hup => ?_,
      fun hst hnot => congrArg _ (turn_notGranted hst (grantClu_none (hnot.imp_right fun hn u hu => ?_))),
      fun hst hnot => congrArg _ (turn_notMine hst fun t ht => ?_), fun n rest hmay hup => ?_,
      fun hst hnot => congrArg _ (turn_notGranted hst (grantSweeper_none hnot)),
      fun hst hnot => congrArg _ (turn_notMine hst fun t ht => ?_), fun hmay => ?_⟩
    · cases t with
      | item n => exact absurd ht (hnot n)
      | _ => rfl
    · obtain ⟨hst, hpow, hnext⟩ := hmay
      have hgrant : grantBte s =
          some (grantTurn .bte (.item n) { s with bte := { s.bte with held := none } }, .item n) := by
        simp only [grantBte, hheld, hnext, if_true]
      exact congrArg _ (turn_granted hst hpow hgrant)
    · cases u with
      | entry n => exact absurd hu (hn n)
      | freeing n => rfl
    · cases t with
      | entryUpdate n => exact absurd ht (hnot n)
      | _ => rfl
    · obtain ⟨hst, hpow, hnext⟩ := hmay
      exact congrArg _ (turn_granted hst hpow (grantClu_some hnext hup rfl))
    · cases u with
      | entry n => rfl
      | freeing n => exact absurd hu (hn n)
    · cases t with
      | freeing n => exact absurd ht (hnot n)
      | _ => rfl
    · obtain ⟨hst, hpow, hnext⟩ := hmay
      exact congrArg _ (turn_granted hst hpow (grantClu_some hnext hup rfl))
    · cases t with
      | sweep m g c => exact absurd ht (hnot m g c)
      | _ => rfl
    · obtain ⟨hst, hpow, hnext⟩ := hmay
      have hgrant : grantSweeper s = some (grantTurn .swp (.sweep s.params.sweepMode s.params.graceS s.tmb.clock) s,
          .sweep s.params.sweepMode s.params.graceS s.tmb.clock) := if_pos hnext
      exact congrArg _ (turn_granted hst hpow hgrant)

end Sys2Proof.Machine
end

section
/-! Index operations at the arbiter: a LOOKUP that parks or inserts, PROBE, REF, MOVE, READ_SLOT, DROP and RESTORE, and
the fingerprint of zero bytes (R1, R9, R28 to R33, R80 to R84, R103 to R107, R115). -/

namespace Sys2Proof.Machine

/-! ## Turns and the work of the index -/

/-- A whole turn whose operation changes port units by notices alone is answered with the operation's outcome. -/
theorem turn_answered {s t : State} {p : Port} {e : QEntry} {k : Kind} {a : Answer}
    {core : QEntry → State → State × Answer} (h : HasTurn s p e) (hk : e.kind = k)
    (hwork : core e (turnBegun p e s) = (t, a)) (hq : QuietWork t (turnBegun p e s)) :
    whenPowered s (runTurn (grantPort p k) (finishPort core p) (isPortTurn p k) .whole) =
      answered p e a (endTurn t) := by
  obtain ⟨hn, hm⟩ := hq.trans (turnBegun_quiet p e s)
  have hturn := portTurn_whole h core (isPortTurn p e.kind) (by rw [hwork]; exact hn) (by rw [hwork, hm])
  rw [hk, hwork] at hturn
  exact hturn

/-- A search's state, where the search is known, differs from the one before by notices alone. -/
theorem searchIndex_quiet_of {s t : State} {fp : Fingerprint} {found : Option Nat}
    (h : searchIndex fp s = (t, found)) : QuietWork t s := by
  have hq := searchIndex_quiet fp s
  rw [h] at hq
  exact hq

theorem containerPut_quiet (c : Nat) (r : ContainerRec) (s : State) : QuietWork (containerPut c r s) s :=
  ⟨.of_ports rfl, rfl⟩

theorem departEntry_quiet (c length : Nat) (s : State) : QuietWork (departEntry c length s) s :=
  containerPut_quiet c _ s

theorem placeChunk_quiet (c offset length : Nat) (s : State) : QuietWork (placeChunk c offset length s) s :=
  containerPut_quiet c _ s

theorem gainEntry_quiet (l : Location) (s : State) : QuietWork (gainEntry l s) s :=
  containerPut_quiet l.container.toNat _ s

/-- Slots and containers are in areas of their own (R173). -/
theorem slotGet_containerPut (c : Nat) (r : ContainerRec) (s : State) (n : Nat) :
    slotGet (containerPut c r s) n = slotGet s n := rfl

theorem containerGet_slotPut (n : Nat) (im : SlotImage) (s : State) (c : Nat) :
    containerGet (slotPut n im s) c = containerGet s c := rfl

theorem slotPut_mem (n : Nat) (im : SlotImage) (s : State) :
    (slotPut n im s).mem.header = s.mem.header ∧ (slotPut n im s).mem.settings = s.mem.settings := ⟨rfl, rfl⟩

theorem containerPut_mem (c : Nat) (r : ContainerRec) (s : State) :
    (containerPut c r s).mem.header = s.mem.header ∧ (containerPut c r s).mem.settings = s.mem.settings := ⟨rfl, rfl⟩

/-! ## A LOOKUP on a PENDING entry (R28, R29, R48, R49) -/

/-- A whole turn of a LOOKUP that parks leaves its queue entry PARKED (R28, R129). -/
theorem lookupTurn_parked {s t : State} {p : Port} {e : QEntry} {fp : Fingerprint} {wait : Bool}
    (h : HasTurn s p e) (hk : e.kind = .lookup) (hreq : e.request = .lookup fp wait)
    (hwork : lookupCore { port := p, ns := e.ns, origin := .single e.tag e.mark } fp wait (turnBegun p e s) =
      (t, none)) :
    exec (.lookupOperation p .whole) s = .next (updEntry p e.tag (fun x => { x with phase := .parked }) (endTurn t)) := by
  have hg : grantPort p .lookup s = some (turnBegun p e s, .port p e) := hk ▸ grantPort_some h
  have hmark : e.mark = (portUnit (turnBegun p e s) p).session := h.isQueued.2
  have hf : finishLookup p (.port p e) (turnBegun p e s) =
      updEntry p e.tag (fun x => { x with phase := .parked }) (endTurn t) := by
    simp only [finishLookup, hreq, hwork]
    exact if_pos hmark
  calc exec (.lookupOperation p .whole) s
      = .next (whenPowered s (runTurn (grantPort p .lookup) (finishLookup p) (isPortTurn p .lookup) .whole)) := rfl
    _ = .next (finishLookup p (.port p e) (turnBegun p e s)) := by simp only [whenPowered, h.1, if_true, runTurn, hg]
    _ = .next (updEntry p e.tag (fun x => { x with phase := .parked }) (endTurn t)) := by rw [hf]

theorem lookupMatch_pending {s : State} {n : Nat} (w : Waiter) (wait : Bool)
    (h : imageState (slotGet s n) = some .pending) :
    lookupMatch w wait n s =
      if wait = true then requestWaiter w (slotGet s n).claim s else (s, some (.inProgress (slotGet s n).claim)) := by
  simp only [lookupMatch, h]

theorem claimInUse_of {r : ClaimRec} (h : r.phase ≠ .free) : claimInUse r = true := decide_eq_true h

theorem requestWaiter_parks {s : State} {c : BitVec 16} (w : Waiter) (huse : (claimGet s c.toNat).phase ≠ .free)
    (hroom : waitersInUse s < 2048) :
    requestWaiter w c s = (countNs w.ns .lookups 1 (parkWaiter c.toNat w s), none) := by
  unfold requestWaiter
  rw [claimInUse_of huse, if_neg (by decide), if_pos (show waitersInUse s < Config.waiterRecords from hroom)]

theorem requestWaiter_full {s : State} {c : BitVec 16} (w : Waiter) (huse : (claimGet s c.toNat).phase ≠ .free)
    (hfull : 2048 ≤ waitersInUse s) : requestWaiter w c s = (s, some (.retry .waitersFull)) := by
  unfold requestWaiter
  have hnot : ¬ waitersInUse s < Config.waiterRecords := Nat.not_lt.mpr hfull
  rw [claimInUse_of huse, if_neg (by decide), if_neg hnot]

/-- Settles O40: the turn is the waiter request's, with or without WAIT. -/
theorem lookupOnPendingParks : Obligations.LookupOnPendingParks := by
  intro s p e fp wait hturn hkind hreq hfp s1 n hsearch hpending c r inUse
  have hcore := lookupCore_of_found { port := p, ns := e.ns, origin := .single e.tag e.mark } wait hfp hsearch
  rw [lookupMatch_pending _ wait hpending] at hcore
  refine ⟨fun hwait => ?_, fun hwait huse hroom => ?_, fun hwait huse hfull => ?_⟩
  · rw [hwait, if_neg (by decide)] at hcore
    rw [hwait] at hreq
    exact lookupTurn_answered hturn hkind hreq hcore
  · rw [hwait, if_pos rfl, requestWaiter_parks _ huse hroom] at hcore
    rw [hwait] at hreq
    exact lookupTurn_parked hturn hkind hreq hcore
  · rw [hwait, if_pos rfl, requestWaiter_full _ huse hfull] at hcore
    rw [hwait] at hreq
    exact lookupTurn_answered hturn hkind hreq hcore

/-! ## The insert of a LOOKUP (R9, R30, R45) -/

theorem lookupCore_of_absent {s s1 : State} {fp : Fingerprint} (w : Waiter) (wait : Bool) (hfp : fp ≠ 0#256)
    (hs : searchIndex fp s = (s1, none)) :
    lookupCore w fp wait s = ((insertEntry w fp s1).1, some (insertEntry w fp s1).2) := by
  unfold lookupCore
  simp only [hfp, if_false, hs]

section
variable {s : State} {fp : Fingerprint}

theorem chooseSlot_none (h : ∀ n ∈ searchSlots (bucketCount s) fp, imageState (slotGet s n) ≠ some .free) :
    chooseSlot s fp = none :=
  List.find?_eq_none.mpr fun n hn => by rw [decide_eq_true_iff]; exact h n hn

/-- The slot chosen is the first FREE one in the search's order (R9). -/
theorem chooseSlot_some {before after : List Nat} {n : Nat}
    (heq : searchSlots (bucketCount s) fp = before ++ n :: after)
    (hbefore : ∀ m ∈ before, imageState (slotGet s m) ≠ some .free) (hn : imageState (slotGet s n) = some .free) :
    chooseSlot s fp = some n :=
  List.find?_eq_some_iff_append.mpr
    ⟨decide_eq_true hn, before, after, heq, fun m hm => by
      rw [Bool.not_eq_true', decide_eq_false_iff_not]
      exact hbefore m hm⟩

theorem freeClaim_none (h : ∀ c, c < 1024 → (claimGet s c).phase ≠ .free) : freeClaim s = none :=
  List.find?_eq_none.mpr fun c hc => by simpa using h c (List.mem_range.mp hc)

/-- The record taken is the lowest-numbered FREE one (R45). -/
theorem freeClaim_some {c : Nat} (hc : c < 1024) (hfree : (claimGet s c).phase = .free)
    (hlowest : ∀ d, d < c → (claimGet s d).phase ≠ .free) : freeClaim s = some c :=
  List.find?_range_eq_some.mpr
    ⟨decide_eq_true hfree, List.mem_range.mpr hc, fun d hd => by simpa using hlowest d hd⟩

end

/-- Settles O41: the insert by what slot and record it finds. -/
theorem lookupInsertsClaim : Obligations.LookupInsertsClaim := by
  intro s p e fp wait hturn hkind hreq hfp s1 hsearch slots
  have hanswer : ∀ {t o},
      insertEntry { port := p, ns := e.ns, origin := .single e.tag e.mark } fp s1 = (t, o) →
      exec (.lookupOperation p .whole) s = .next (answered p e (.index o) (endTurn t)) := fun hinsert =>
    lookupTurn_answered hturn hkind hreq ((lookupCore_of_absent _ wait hfp hsearch).trans (by rw [hinsert]))
  refine ⟨fun hnone => hanswer ?_, fun before after n heq hbefore hn => ⟨fun hnone => hanswer ?_,
    fun c hc hfree hlowest => hanswer ?_⟩⟩
  · simp only [insertEntry, chooseSlot_none hnone]
  · simp only [insertEntry, chooseSlot_some heq hbefore hn, freeClaim_none hnone]
  · simp only [insertEntry, chooseSlot_some heq hbefore hn, freeClaim_some hc hfree hlowest]
    rfl

/-! ## PROBE and REF (R31 to R33) -/

theorem probeCore_of_absent {s s1 : State} {fp : Fingerprint} (hfp : fp ≠ 0#256)
    (hs : searchIndex fp s = (s1, none)) : probeCore fp s = (s1, .probeMiss) := by
  unfold probeCore
  simp only [hfp, if_false, hs]

theorem probeCore_of_found {s s1 : State} {fp : Fingerprint} {n : Nat} (hfp : fp ≠ 0#256)
    (hs : searchIndex fp s = (s1, some n)) : probeCore fp s = (s1, probeMatch s1 n) := by
  unfold probeCore
  simp only [hfp, if_false, hs]

/-- What a REF does with a matched slot of a state (R32, R33); `refCore_of_found` ties it to the model. -/
def refMatch (n k : Nat) (s : State) : EntryState → State × IndexOutcome
  | .stored => addReferences n .stored k s
  | .zero => addReferences n .zero k s
  | .pinned => addReferences n .pinned k s
  | .pending => (s, .inProgress (slotGet s n).claim)
  | .free | .suspect => (s, .suspect)

theorem refCore_of_absent {s s1 : State} {fp : Fingerprint} (k : Nat) (hfp : fp ≠ 0#256)
    (hs : searchIndex fp s = (s1, none)) : refCore fp k s = (s1, .notFound) := by
  unfold refCore
  simp only [hfp, if_false, hs]

theorem refCore_of_found {s s1 : State} {fp : Fingerprint} {n : Nat} {st : EntryState} (k : Nat) (hfp : fp ≠ 0#256)
    (hs : searchIndex fp s = (s1, some n)) (hst : imageState (slotGet s1 n) = some st) :
    refCore fp k s = refMatch n k s1 st := by
  unfold refCore
  simp only [hfp, if_false, hs, slotState, hst]
  cases st <;> rfl

theorem refMatch_quiet (n k : Nat) (s : State) (st : EntryState) : QuietWork (refMatch n k s st).1 s := by
  cases st with
  | free => exact .rfl
  | pending => exact .rfl
  | stored => exact addReferences_quiet _ _ _ _
  | zero => exact addReferences_quiet _ _ _ _
  | pinned => exact addReferences_quiet _ _ _ _
  | suspect => exact .rfl

theorem refSum_eq_max (r : BitVec 16) (k : Nat) : refSum r k = Config.refcountMax ↔ 65535 ≤ r.toNat + k := by
  unfold refSum Config.refcountMax
  omega

/-- References added to a refcount: at 65,535 and above the entry is PINNED at 65,535 (R24, R32). -/
theorem imageWithRefs_add (im : SlotImage) (k : Nat) :
    imageWithRefs im (refSum im.refcount k) =
      if 65535 ≤ im.refcount.toNat + k then imageCounted .pinned im.fp 0xFFFF#16 im.loc im.ns 0#40
      else imageCounted .stored im.fp (BitVec.ofNat 16 (im.refcount.toNat + k)) im.loc im.ns 0#40 := by
  unfold imageWithRefs
  simp only [refSum_eq_max]
  split
  · next h =>
    have hsum : refSum im.refcount k = 65535 := (refSum_eq_max _ _).mpr h
    rw [hsum]
  · next h =>
    have hsum : refSum im.refcount k = im.refcount.toNat + k := by
      unfold refSum Config.refcountMax
      omega
    rw [hsum]

/-- Settles O42: the searched slot's state decides the outcome of each. -/
theorem probeReportsAndRefAdds : Obligations.ProbeReportsAndRefAdds := by
  intro s p e fp hturn hfp s1 found hsearch
  have hquiet := searchIndex_quiet_of hsearch
  refine ⟨fun hkind hreq => ?_, fun k hkind hreq => ?_⟩
  · have hanswer : ∀ {o}, probeCore fp (turnBegun p e s) = (s1, o) →
        exec (.probeOperation p .whole) s = .next (answered p e (.index o) (endTurn s1)) := fun hcore =>
      congrArg _ (turn_answered hturn hkind (by simp only [probeOf, hreq, hcore, indexAnswer]) hquiet)
    refine ⟨fun hnone => ?_, fun n hsome => ?_⟩
    · subst hnone
      exact hanswer (probeCore_of_absent hfp hsearch)
    · subst hsome
      refine ⟨_, hanswer (probeCore_of_found hfp hsearch), fun h => ?_, fun h => ?_, fun h => ?_, fun h => ?_,
        fun h => ?_⟩ <;> simp only [probeMatch, h]
  · have hanswer : ∀ {t o}, refCore fp k (turnBegun p e s) = (t, o) → QuietWork t s1 →
        exec (.refOperation p .whole) s = .next (answered p e (.index o) (endTurn t)) := fun hcore hq =>
      congrArg _ (turn_answered hturn hkind (by simp only [refOf, hreq, hcore, indexAnswer]) (hq.trans hquiet))
    refine ⟨fun hnone => ?_, fun n hsome => ?_⟩
    · subst hnone
      exact hanswer (refCore_of_absent k hfp hsearch) .rfl
    · subst hsome
      intro im
      have hmatch : ∀ {st t o}, imageState im = some st → refMatch n k s1 st = (t, o) →
          exec (.refOperation p .whole) s = .next (answered p e (.index o) (endTurn t)) := fun {st _ _} hst hm => by
        have hq := refMatch_quiet n k s1 st
        rw [hm] at hq
        exact hanswer ((refCore_of_found k hfp hsearch hst).trans hm) hq
      refine ⟨fun h => hmatch h ?_, fun h hk => hmatch h ?_, fun h => hmatch h rfl, fun h => hmatch h rfl,
        fun h => hmatch h rfl⟩
      · simp only [refMatch, addReferences, imageWithRefs_add, refSum_eq_max, im]
      · have hne : k ≠ Config.refcountMax := Nat.ne_of_lt hk
        simp only [refMatch, addReferences, imageWithRefs, hne, if_false, im]

/-! ## MOVE (R80 to R83) -/

theorem moveCore_of_absent {s s1 : State} {fp : Fingerprint} (p : Port) (src dst off len : Nat) (hfp : fp ≠ 0#256)
    (hs : searchIndex fp s = (s1, none)) : moveCore p fp src dst off len s = (s1, .index .notFound) := by
  unfold moveCore
  simp only [hfp, if_false, hs]

theorem moveCore_of_found {s s1 : State} {fp : Fingerprint} {n : Nat} (p : Port) (src dst off len : Nat)
    (hfp : fp ≠ 0#256) (hs : searchIndex fp s = (s1, some n)) :
    moveCore p fp src dst off len s = moveMatch p n src dst off len s1 := by
  unfold moveCore
  simp only [hfp, if_false, hs]

/-- The tests of a MOVE on a STORED, ZERO or PINNED entry (R83). -/
theorem moveMatch_of_counted {s : State} {n : Nat} (p : Port) (src dst off len : Nat)
    (h : imageState (slotGet s n) = some .stored ∨ imageState (slotGet s n) = some .zero ∨
      imageState (slotGet s n) = some .pinned) :
    moveMatch p n src dst off len s =
      if (slotGet s n).loc.container.toNat ≠ src then (s, .wrongLocation)
      else if (slotGet s n).loc.length.toNat ≠ len then (s, .lengthMismatch)
      else moveEntry p n src dst off len s := by
  rcases h with h | h | h <;> simp only [moveMatch, h]

/-- Index memory and its parts that a move does not touch, and the container records it accounts (R80, R81, R83). -/
theorem moveEntry_of_passed {s : State} {p : Port} {src dst off len : Nat} (n : Nat)
    (hsrc : (containerGet s src).state = .closed) (htest : placementTest s p dst off len = none) :
    moveEntry p n src dst off len s =
      (slotPut n
        (imageFresh { slotGet s n with
          loc := { container := BitVec.ofNat 16 dst, offset := BitVec.ofNat 32 off, length := BitVec.ofNat 32 len },
          claim := 0#16 })
        (departEntry src len (placeChunk dst off len s)), .done .none) := by
  unfold moveEntry
  rw [if_neg (by simp [hsrc]), htest]

theorem placementTest_eq (s : State) (p : Port) (c off len : Nat) :
    placementTest s p c off len =
      if (containerGet s c).state ≠ .opened ∨ (containerGet s c).owner ≠ p then some .notOwner
      else if off < (containerGet s c).fill then some .overlap
      else if 67108864 < off + len then some .containerFull
      else none := rfl

theorem moveEntry_of_refused {s : State} {p : Port} {src dst off len : Nat} (n : Nat) {a : Answer}
    (hsrc : (containerGet s src).state = .closed) (htest : placementTest s p dst off len = some a) :
    moveEntry p n src dst off len s = (s, a) := by
  unfold moveEntry
  rw [if_neg (by simp [hsrc]), htest]

/-- What a move leaves: every block but index memory, and header and settings area there (R173). -/
theorem moved_frame (n : Nat) (im : SlotImage) (src len dst off top : Nat) (s : State) :
    let t := slotPut n im (departEntry src len (placeChunk dst off top s))
    t.ports = s.ports ∧ t.ixc = s.ixc ∧ t.clu = s.clu ∧ t.ctu = s.ctu ∧ t.bte = s.bte ∧ t.swp = s.swp ∧
      t.tmb = s.tmb ∧ t.nst = s.nst ∧ t.stu = s.stu ∧ t.mif = s.mif ∧ t.params = s.params ∧
      t.mem.header = s.mem.header ∧ t.mem.settings = s.mem.settings := by
  simp [departEntry, placeChunk, slotPut_mem, containerPut_mem]

/-- Settles O44: the tests in their order, and the accounting of the one that passes them. -/
theorem moveTestsThenRewrites : Obligations.MoveTestsThenRewrites := by
  intro s p e fp src dst off len hturn hkind hreq hfp s1 found hsearch does
  have hquiet := searchIndex_quiet_of hsearch
  have hanswer : ∀ {t a}, moveCore p fp src dst off len (turnBegun p e s) = (t, a) → QuietWork t s1 → does a t :=
    fun hcore hq => congrArg _ (turn_answered hturn hkind (by simp only [moveOf, hreq, hcore]) (hq.trans hquiet))
  refine ⟨fun hnone => ?_, fun n hsome => ?_⟩
  · subst hnone
    exact hanswer (moveCore_of_absent p src dst off len hfp hsearch) .rfl
  · subst hsome
    intro im d
    have hfound := moveCore_of_found p src dst off len hfp hsearch
    refine ⟨fun h => hanswer (hfound.trans ?_) .rfl, fun h => hanswer (hfound.trans ?_) .rfl, fun h => ?_⟩
    · simp only [moveMatch, show imageState (slotGet s1 n) = some .pending from h]
    · simp only [moveMatch, show imageState (slotGet s1 n) = some .suspect from h]
    have hmatch := hfound.trans (moveMatch_of_counted p src dst off len h)
    refine ⟨fun hcontainer => hanswer (hmatch.trans (if_pos hcontainer)) .rfl, fun hcontainer hlength => ?_,
      fun hcontainer hlength => ?_⟩
    · rw [if_neg (not_not.mpr hcontainer), if_pos hlength] at hmatch
      exact hanswer hmatch .rfl
    rw [if_neg (not_not.mpr hcontainer), if_neg (not_not.mpr hlength)] at hmatch
    refine ⟨fun hsrc => hanswer (hmatch.trans (if_pos hsrc)) .rfl, fun hsrc => ?_⟩
    have hrefused : ∀ {a}, placementTest s1 p dst off len = some a → does a s1 := fun htest =>
      hanswer (hmatch.trans (moveEntry_of_refused n hsrc htest)) .rfl
    have htest := placementTest_eq s1 p dst off len
    refine ⟨fun hnot => hrefused (htest.trans (if_pos hnot)), fun hopen howner hlt => hrefused (htest.trans ?_),
      fun hopen howner hfill hlt => hrefused (htest.trans ?_), fun hopen howner hfill hfits => ?_⟩
    · rw [if_neg (not_or.mpr ⟨not_not.mpr hopen, not_not.mpr howner⟩), if_pos hlt]
    · rw [if_neg (not_or.mpr ⟨not_not.mpr hopen, not_not.mpr howner⟩), if_neg (Nat.not_lt.mpr hfill), if_pos hlt]
    rw [if_neg (not_or.mpr ⟨not_not.mpr hopen, not_not.mpr howner⟩), if_neg (Nat.not_lt.mpr hfill),
      if_neg (Nat.not_lt.mpr hfits)] at htest
    have hne : dst ≠ src := fun heq => by
      have hclosed : d.state = .closed := by rw [← heq] at hsrc; exact hsrc
      exact absurd (hopen.symm.trans hclosed) (by decide)
    have hwork := hmatch.trans (moveEntry_of_passed n hsrc htest)
    have hdone := hanswer hwork
      ((slotPut_quiet _ _ _).trans ((departEntry_quiet _ _ _).trans (placeChunk_quiet _ _ _ _)))
    refine ⟨_, hdone, slotGet_slotPut_same _ _ _, fun m hm => ?_, ?_, ?_, fun c hsrc' hdst' => ?_,
      moved_frame _ _ _ _ _ _ _ _⟩
    · rw [slotGet_slotPut_ne _ _ hm, departEntry, slotGet_containerPut, placeChunk, slotGet_containerPut]
    · rw [containerGet_slotPut, departEntry, containerGet_containerPut, if_neg (Ne.symm hne), placeChunk,
        containerGet_containerPut_same]
    · rw [containerGet_slotPut, departEntry, containerGet_containerPut_same, placeChunk, containerGet_containerPut,
        if_neg hne]
    · rw [containerGet_slotPut, departEntry, containerGet_containerPut, if_neg (Ne.symm hsrc'), placeChunk,
        containerGet_containerPut, if_neg (Ne.symm hdst')]

/-! ## READ_SLOT and DROP (R103 to R105) -/

theorem dropCore_of_counted {s : State} {n : Nat}
    (h : imageState (slotGet s n) = some .stored ∨ imageState (slotGet s n) = some .zero ∨
      imageState (slotGet s n) = some .pinned ∨ imageState (slotGet s n) = some .suspect) :
    dropCore n s =
      (setOccupancy (s.ixc.occupancy - 1) (departLocation (slotGet s n).loc (slotPut n SlotImage.free s)),
        .done .none) := by
  unfold dropCore
  rcases h with h | h | h | h <;> simp only [h]

theorem dropCore_of_other {s : State} {n : Nat}
    (h : imageState (slotGet s n) = some .free ∨ imageState (slotGet s n) = some .pending ∨
      imageState (slotGet s n) = none) : dropCore n s = (s, .wrongState) := by
  unfold dropCore
  rcases h with h | h | h <;> simp only [h]

/-- Settles O45: the slot as stored, and the drop by its state. -/
theorem readSlotAndDropNameOneSlot : Obligations.ReadSlotAndDropNameOneSlot := by
  intro s p e q hturn n s0 im
  refine ⟨fun hkind hreq => ?_, fun hkind hreq => ?_⟩
  · exact congrArg _ (turn_answered hturn hkind (by simp only [readSlotOf, hreq]; rfl) .rfl)
  · have hanswer : ∀ {t a}, dropCore n s0 = (t, a) → QuietWork t s0 →
        exec (.dropOperation p .whole) s = .next (answered p e a (endTurn t)) := fun hcore hq =>
      congrArg _ (turn_answered hturn hkind (by simp only [dropOf, hreq]; exact hcore) hq)
    refine ⟨fun hcounted => hanswer (dropCore_of_counted hcounted) ?_, fun hother =>
      hanswer (dropCore_of_other hother) .rfl⟩
    exact (setOccupancy_quiet _ _).trans ((departEntry_quiet _ _ _).trans (slotPut_quiet _ _ _))

/-! ## RESTORE (R84, R106, R107) -/

theorem searchFrom_quiet (fp : Fingerprint) (ns : List Nat) (s : State) : QuietWork (searchFrom fp ns s).1 s :=
  ⟨searchFrom_notices _ _ _, by simp⟩

section
variable {s : State} {r : RestoreBody}

theorem restoreCore_of_notSuspect (hfp : r.fp ≠ 0#256)
    (h : imageState (slotGet s (positionSlot r.pos)) ≠ some .suspect) : restoreCore r s = (s, .wrongState) := by
  unfold restoreCore
  simp only [hfp, if_false]
  exact if_pos h

theorem restoreCore_of_mismatch (hfp : r.fp ≠ 0#256)
    (h : slotState s (positionSlot r.pos) = some .suspect)
    (hhome : r.pos.bucket ≠ homeBucket (bucketCount s) r.fp)
    (halternate : r.pos.bucket ≠ alternateBucket (bucketCount s) r.fp) : restoreCore r s = (s, .mismatch) := by
  unfold restoreCore
  simp only [hfp, if_false]
  rw [if_neg (not_not.mpr h), if_pos ⟨hhome, halternate⟩]

theorem restoreCore_of_held {s1 : State} {m : Nat} (hfp : r.fp ≠ 0#256)
    (h : slotState s (positionSlot r.pos) = some .suspect)
    (hbucket : r.pos.bucket = homeBucket (bucketCount s) r.fp ∨ r.pos.bucket = alternateBucket (bucketCount s) r.fp)
    (hs : searchOthers r.fp (positionSlot r.pos) s = (s1, some m)) : restoreCore r s = (s1, .mismatch) := by
  unfold restoreCore
  simp only [hfp, if_false, hs]
  rw [if_neg (not_not.mpr h), if_neg (fun hno => hbucket.elim hno.1 hno.2)]

theorem restoreCore_of_alone {s1 : State} (hfp : r.fp ≠ 0#256)
    (h : slotState s (positionSlot r.pos) = some .suspect)
    (hbucket : r.pos.bucket = homeBucket (bucketCount s) r.fp ∨ r.pos.bucket = alternateBucket (bucketCount s) r.fp)
    (hs : searchOthers r.fp (positionSlot r.pos) s = (s1, none)) :
    restoreCore r s = restoreEntry r (positionSlot r.pos) s1 := by
  unfold restoreCore
  simp only [hfp, if_false, hs]
  rw [if_neg (not_not.mpr h), if_neg (fun hno => hbucket.elim hno.1 hno.2)]

end

theorem restoreEntry_of_passed {r : RestoreBody} {s : State} (n : Nat) (h : transferTest s r.loc = none) :
    restoreEntry r n s = (slotPut n (restoredImage r) (transferEntry (slotGet s n).loc r.loc s), .done .none) := by
  unfold restoreEntry
  rw [h]

theorem restoreEntry_of_refused {r : RestoreBody} {s : State} {a : Answer} (n : Nat)
    (h : transferTest s r.loc = some a) : restoreEntry r n s = (s, a) := by
  unfold restoreEntry
  rw [h]

theorem transferTest_eq (s : State) (l : Location) :
    transferTest s l =
      if (containerGet s l.container.toNat).state = .free then some .wrongState
      else if 67108864 < l.offset.toNat + l.length.toNat then some .containerFull
      else none := rfl

/-- Settles O46: the tests in their order, and the transfer of the one that passes them. -/
theorem restoreRewritesSuspectSlot : Obligations.RestoreRewritesSuspectSlot := by
  intro s p e r hturn hkind hreq hfp n s0 bc others does
  have hanswer : ∀ {t a}, restoreCore r s0 = (t, a) → QuietWork t s0 → does a t := fun hcore hq =>
    congrArg _ (turn_answered hturn hkind (by simp only [restoreOf, hreq]; exact hcore) hq)
  refine ⟨fun hnot => hanswer (restoreCore_of_notSuspect hfp hnot) .rfl, fun hsuspect => ⟨fun hhome halternate =>
    hanswer (restoreCore_of_mismatch hfp hsuspect hhome halternate) .rfl, fun hbucket s1 found hsearch => ?_⟩⟩
  have hquiet : QuietWork s1 s0 := by
    have hq := searchFrom_quiet r.fp others s0
    rw [hsearch] at hq
    exact hq
  refine ⟨fun hsome => ?_, fun hnone => ?_⟩
  · obtain ⟨m, rfl⟩ := Option.ne_none_iff_exists'.mp hsome
    exact hanswer (restoreCore_of_held hfp hsuspect hbucket hsearch) hquiet
  · subst hnone
    have hcore := restoreCore_of_alone hfp hsuspect hbucket hsearch
    intro c top old gained d moved
    have htest := transferTest_eq s1 r.loc
    refine ⟨fun hfree => ?_, fun hused hlt => ?_, fun hused hfits => ⟨?_, fun hsame hlength => ?_⟩⟩
    · exact hanswer (hcore.trans (restoreEntry_of_refused _ (htest.trans (if_pos hfree)))) hquiet
    · rw [if_neg hused, if_pos hlt] at htest
      exact hanswer (hcore.trans (restoreEntry_of_refused _ htest)) hquiet
    · rw [if_neg hused, if_neg (Nat.not_lt.mpr hfits)] at htest
      exact hanswer (hcore.trans (restoreEntry_of_passed _ htest))
        ((slotPut_quiet _ _ _).trans ((departEntry_quiet _ _ _).trans ((gainEntry_quiet _ _).trans hquiet)))
    · have hgained : d = { containerGet s1 c with
          fill := max (containerGet s1 c).fill top, live := (containerGet s1 c).live + 1,
          bytes := (containerGet s1 c).bytes + r.loc.length.toNat } := by
        simp only [d, gained, hsame, containerGet_containerPut_same]
      have hmoved : containerGet moved c = { d with live := d.live - 1, bytes := d.bytes - old.length.toNat } := by
        simp only [moved, hsame, containerGet_containerPut_same]
      rw [hmoved, hgained, hlength]
      simp only [Nat.add_sub_cancel]

end Sys2Proof.Machine
end

section
/-! Batches started and run, item by item, and the fingerprint of zero bytes (R1, R112 to R120). -/

namespace Sys2Proof.Machine

/-! ## The start of a batch (R112, R113) -/

/-- A request answered with the state unchanged, by the block that takes it. -/
theorem answerEntry_canTake {s : State} {p : Port} {e : QEntry} (h : CanTake s p e) (a : Answer) :
    answerEntry p e a s = answered p e a s :=
  answerEntry_answered h.isQueued h.restart a

section
variable {s : State}

theorem freeContext_none (h : ∀ n, n < 8 → (contextGet s n).phase ≠ .free) : freeContext s = none :=
  List.find?_eq_none.mpr fun n hn => by simpa using h n (List.mem_range.mp hn)

/-- The context filled is the lowest-numbered FREE one (R112). -/
theorem freeContext_some {n : Nat} (hn : n < 8) (hfree : (contextGet s n).phase = .free)
    (hlowest : ∀ m, m < n → (contextGet s m).phase ≠ .free) : freeContext s = some n :=
  List.find?_range_eq_some.mpr
    ⟨decide_eq_true hfree, List.mem_range.mpr hn, fun m hm => by simpa using hlowest m hm⟩

end

/-- The three batch kinds are taken alike (R112). -/
theorem exec_batchStart {s : State} {p : Port} {e : QEntry} {c : Instr} (h : CanTake s p e)
    (hk : e.kind = .lookupBatch ∨ e.kind = .probeBatch ∨ e.kind = .releaseBatch)
    (hc : blockCommand e.kind p (.take e.tag) = some c) : exec c s = .next (takeBatch p e s) := by
  rcases hk with hk | hk | hk
  all_goals
    rw [hk] at hc
    cases hc
    exact congrArg _ (request_taken h hk takeBatch)

/-- The exclusive OR of the eight words, folded into a word (R113). -/
theorem fingerprintWord_eq (fp : Fingerprint) :
    fingerprintWord fp =
      (fp.extractLsb' 0 32 ^^^ fp.extractLsb' 32 32 ^^^ fp.extractLsb' 64 32 ^^^ fp.extractLsb' 96 32 ^^^
        fp.extractLsb' 128 32 ^^^ fp.extractLsb' 160 32 ^^^ fp.extractLsb' 192 32 ^^^ fp.extractLsb' 224 32) := by
  simp [fingerprintWord, List.range_succ]

/-- Settles O51: the context found, then the check word, and the word's eight parts. -/
theorem batchStartFillsContext : Obligations.BatchStartFillsContext := by
  refine ⟨fun s p e b c htake hk hc hreq => ?_, fun items => ?_⟩
  · rw [exec_batchStart htake hk hc]
    refine ⟨fun hnone => ?_, fun n hn hfree hlowest => ⟨fun hword => ?_, fun hword => ?_⟩⟩
    · simp only [takeBatch, hreq, freeContext_none hnone, answerEntry_canTake htake]
    · simp only [takeBatch, hreq, freeContext_some hn hfree hlowest, answerEntry_canTake htake, hword, ne_eq,
        not_false_eq_true, if_true]
    · simp only [takeBatch, hreq, freeContext_some hn hfree hlowest, hword, ne_eq, not_true_eq_false, if_false]
      rfl
  · simp only [checkWordOf, fingerprintWord_eq]

/-! ## The work of an item leaves the batch engine alone (R115) -/

theorem addReferences_bte (slot : Nat) (st : EntryState) (n : Nat) (s : State) :
    (addReferences slot st n s).1.bte = s.bte := by
  unfold addReferences
  split <;> simp

theorem requestWaiter_bte (w : Waiter) (c : BitVec 16) (s : State) : (requestWaiter w c s).1.bte = s.bte := by
  unfold requestWaiter
  split
  · rfl
  · split <;> simp [parkWaiter]

theorem insertEntry_bte (w : Waiter) (fp : Fingerprint) (s : State) : (insertEntry w fp s).1.bte = s.bte := by
  unfold insertEntry
  split
  · rfl
  · split <;> simp

theorem lookupMatch_bte (w : Waiter) (wait : Bool) (slot : Nat) (s : State) :
    (lookupMatch w wait slot s).1.bte = s.bte := by
  unfold lookupMatch
  dsimp only
  split
  · split
    · exact requestWaiter_bte _ _ _
    · rfl
  · simp [countHit, addReferences_bte]
  · simp [countHit, addReferences_bte]
  · simp [countHit, addReferences_bte]
  · rfl

theorem lookupCore_bte (w : Waiter) (fp : Fingerprint) (wait : Bool) (s : State) :
    (lookupCore w fp wait s).1.bte = s.bte := by
  unfold lookupCore
  split
  · rfl
  · dsimp only
    split <;> simp [lookupMatch_bte, insertEntry_bte]

theorem probeCore_bte (fp : Fingerprint) (s : State) : (probeCore fp s).1.bte = s.bte := by
  unfold probeCore
  split
  · rfl
  · dsimp only
    split <;> simp

theorem releaseMatch_bte (p : Port) (ns slot k : Nat) (s : State) (st : EntryState) :
    (releaseMatch p ns slot k s st).1.bte = s.bte := by
  cases st with
  | stored =>
    simp only [releaseMatch, releaseStored]
    split
    · rfl
    · split <;> simp
  | zero => rfl
  | pinned => rfl
  | pending => rfl
  | free => rfl
  | suspect => rfl

theorem releaseCore_bte (p : Port) (ns : Nat) (fp : Fingerprint) (k : Nat) (s : State) :
    (releaseCore p ns fp k s).1.bte = s.bte := by
  by_cases hfp : fp = 0#256
  · simp [releaseCore, hfp]
  · obtain ⟨-, -, -, -, hbte, -⟩ := searchIndex_frame fp s
    rcases hs : searchIndex fp s with ⟨s1, found⟩
    rw [hs] at hbte
    cases found with
    | none => rw [releaseCore_of_absent p ns k hfp hs]; exact hbte
    | some n =>
      cases hst : imageState (slotGet s1 n) with
      | none =>
        have hsuspect : releaseCore p ns fp k s = (s1, .suspect) := by simp [releaseCore, hfp, hs, slotState, hst]
        rw [hsuspect]
        exact hbte
      | some st =>
        rw [releaseCore_of_found p ns k hfp hs hst, releaseMatch_bte]
        exact hbte

theorem itemWork_bte (n : Nat) (c : Context) (i : BatchItem) (s : State) : (itemWork n c i s).1.bte = s.bte := by
  unfold itemWork
  split
  · exact lookupCore_bte _ _ _ _
  · exact probeCore_bte _ _
  · exact releaseCore_bte _ _ _ _ _

/-! ## The item's operation recorded (R115, R117, R119, R120) -/

/-- An outcome depends on nothing but the port units and whether a RESTART is taken (R143, R177). -/
theorem answer_ports_congr {s t : State} (hports : t.ports = s.ports)
    (hrestart : t.mif.restartTaken = s.mif.restartTaken) (p : Port) (tag : Tag) (mark : Session) (a : Answer) :
    (answer p tag mark a t).ports = (answer p tag mark a s).ports := by
  have hunit : portUnit t p = portUnit s p := portUnit_ports s t hports p
  unfold answer queued
  rw [hunit, hrestart]
  split
  · exact hports
  · split
    · exact hports
    · split <;> simp only [markTaken, updEntry, updPort, hports]

theorem contextPut_held (n : Nat) (c : Context) (s : State) : (contextPut n c s).bte.held = s.bte.held := rfl

/-- A finished context is answered and FREE, and the rest of the part is as it was (R120). -/
theorem finishContext_parts (n : Nat) (s : State) :
    contextGet (finishContext n s) n = Context.zero ∧
      (∀ m, m ≠ n → contextGet (finishContext n s) m = contextGet s m) ∧
      (finishContext n s).ports =
        (answer (contextGet s n).port (contextGet s n).tag (contextGet s n).mark (batchAnswer (contextGet s n)) s).ports ∧
      (finishContext n s).mem = s.mem ∧ (finishContext n s).clu = s.clu ∧ (finishContext n s).ixc = s.ixc ∧
      (finishContext n s).stu = s.stu ∧ (finishContext n s).ctu = s.ctu ∧ (finishContext n s).swp = s.swp ∧
      (finishContext n s).tmb = s.tmb ∧ (finishContext n s).nst = s.nst ∧ (finishContext n s).mif = s.mif ∧
      (finishContext n s).params = s.params ∧ (finishContext n s).bte.held = s.bte.held := by
  unfold finishContext
  refine ⟨contextGet_contextPut_same _ _ _, fun m hm => ?_, by simp [contextPut_held]⟩
  rw [contextGet_contextPut, if_neg (Ne.symm hm)]
  simp [contextGet]

section
variable {s t : State} {n : Nat} {c : Context}

theorem settleContext_of_left (hc : contextGet s n = c) (h : c.cursor < c.items.length) : settleContext n s = s := by
  unfold settleContext
  rw [hc, if_neg fun hend => absurd h (Nat.not_lt.mpr hend.2)]

theorem settleContext_of_parked (hc : contextGet s n = c) (hrunning : c.phase = .running)
    (hend : c.items.length ≤ c.cursor) (hparked : c.parked ≠ 0) :
    settleContext n s = contextPut n { c with phase := .awaiting } s := by
  unfold settleContext
  rw [hc, if_pos ⟨hrunning, hend⟩, if_neg hparked]

theorem settleContext_of_done (hc : contextGet s n = c) (hrunning : c.phase = .running)
    (hend : c.items.length ≤ c.cursor) (hparked : c.parked = 0) : settleContext n s = finishContext n s := by
  unfold settleContext
  rw [hc, if_pos ⟨hrunning, hend⟩, if_pos hparked]

end

theorem tableErase_insert {α : Type} (t : List (Nat × α)) (k : Nat) (v : α) :
    tableErase (tableInsert k v t) k = tableErase t k := by
  induction t with
  | nil => simp [tableInsert, tableErase]
  | cons e rest ih =>
    obtain ⟨j, w⟩ := e
    by_cases hlt : k < j
    · simp [tableInsert, hlt, tableErase]
    · unfold tableErase at ih ⊢
      rw [tableInsert, if_neg hlt, List.filter_cons, List.filter_cons, ih]

theorem tableErase_erase {α : Type} (t : List (Nat × α)) (k : Nat) :
    tableErase (tableErase t k) k = tableErase t k := by
  simp [tableErase]

/-- A pair written twice is the pair written last. -/
theorem tableSet_tableSet {α : Type} [DecidableEq α] (d : α) (t : List (Nat × α)) (k : Nat) (v w : α) :
    tableSet d (tableSet d t k v) k w = tableSet d t k w := by
  have herase : tableErase (tableSet d t k v) k = tableErase t k := by
    unfold tableSet
    split
    · exact tableErase_erase t k
    · rw [tableErase_insert, tableErase_erase]
  rw [tableSet, herase]
  rfl

/-- A record written twice is the one written last. -/
theorem contextPut_contextPut (n : Nat) (c d : Context) (s : State) :
    contextPut n c (contextPut n d s) = contextPut n c s := by
  unfold contextPut
  simp only [tableSet_tableSet]

/-- The batch engine's turn granted for the item it holds (R19, R114). -/
def itemBegun (n : Nat) (s : State) : State :=
  grantTurn .bte (.item n) { s with bte := { s.bte with held := none } }

theorem contextGet_itemBegun (n m : Nat) (s : State) : contextGet (itemBegun n s) m = contextGet s m := rfl

/-- The batch engine holds an item of a running context and is next at the arbiter. -/
structure HasItemTurn (s : State) (n : Nat) (i : BatchItem) : Prop where
  powered : s.powered = true
  next : nextRequester s = some .bte
  held : s.bte.held = some n
  running : (contextGet s n).phase = .running
  cancelled : (contextGet s n).cancelled = false
  item : (contextGet s n).items[(contextGet s n).cursor]? = some i

section
variable {s t : State} {n : Nat} {i : BatchItem} {o : Option IndexOutcome}

/-- A whole turn of an item records what the item's work gives, and settles the context. -/
theorem batchItem_whole (h : HasItemTurn s n i) (hwork : itemWork n (contextGet s n) i (itemBegun n s) = (t, o)) :
    exec (.batchItemOperation .whole) s =
      .next (presentItem (endTurn (settleContext n (contextPut n (itemRecorded (contextGet s n) o) t)))) := by
  have hgrant : grantBte s = some (itemBegun n s, .item n) := by
    simp only [grantBte, h.held, h.next, if_true, itemBegun]
  have htake : takeItem n (itemBegun n s) =
      settleContext n (contextPut n (itemRecorded (contextGet s n) o) t) := by
    simp only [takeItem, contextGet_itemBegun, h.item, hwork]
  calc exec (.batchItemOperation .whole) s
      = .next (whenPowered s (runTurn grantBte finishItem isItemTurn .whole)) := rfl
    _ = .next (finishItem (.item n) (itemBegun n s)) := by
      simp only [whenPowered, h.powered, if_true, runTurn, hgrant]
    _ = .next (presentItem (endTurn (settleContext n (contextPut n (itemRecorded (contextGet s n) o) t)))) := by
      rw [finishItem, htake]

/-- The context after the item at its cursor (R115, R117). -/
def recordedContext (c : Context) (o : Option IndexOutcome) : Context :=
  { c with
    cursor := c.cursor + 1,
    outcomes := c.outcomes.set c.cursor (match o with | some x => .answered x | none => .parked),
    parked := if o = none then c.parked + 1 else c.parked }

theorem itemRecorded_eq (c : Context) (o : Option IndexOutcome) : itemRecorded c o = recordedContext c o := by
  cases o <;> rfl

/-- What a whole turn of an item comes to, by whether it is the batch's last and whether items are parked (R119). -/
theorem batchItem_settles (h : HasItemTurn s n i) (hwork : itemWork n (contextGet s n) i (itemBegun n s) = (t, o)) :
    let c := contextGet s n
    let c' := recordedContext c o
    (c.cursor + 1 < c.items.length →
      exec (.batchItemOperation .whole) s = .next (presentItem (endTurn (contextPut n c' t)))) ∧
    (c.items.length ≤ c.cursor + 1 → c'.parked ≠ 0 →
      exec (.batchItemOperation .whole) s =
        .next (presentItem (endTurn (contextPut n { c' with phase := .awaiting } t)))) ∧
    (c.items.length ≤ c.cursor + 1 → c'.parked = 0 →
      ∃ t', exec (.batchItemOperation .whole) s = .next (presentItem (endTurn t')) ∧
        contextGet t' n = Context.zero ∧ (∀ m, m ≠ n → contextGet t' m = contextGet s m) ∧
        t'.ports =
          (answer c.port c.tag c.mark (.batchDone (c.cursor + 1) (c'.outcomes.map itemOutcome)) t).ports ∧
        t'.mem = t.mem ∧ t'.clu = t.clu ∧ t'.ixc = t.ixc ∧ t'.stu = t.stu ∧ t'.ctu = t.ctu ∧ t'.swp = t.swp ∧
        t'.tmb = t.tmb ∧ t'.nst = t.nst ∧ t'.mif = t.mif ∧ t'.params = t.params) := by
  intro c c'
  have hwhole := batchItem_whole h hwork
  rw [itemRecorded_eq] at hwhole
  have hget : contextGet (contextPut n c' t) n = c' := contextGet_contextPut_same _ _ _
  refine ⟨fun hleft => ?_, fun hend hparked => ?_, fun hend hparked => ?_⟩
  · rw [settleContext_of_left hget hleft] at hwhole
    exact hwhole
  · rw [settleContext_of_parked hget h.running hend hparked, contextPut_contextPut] at hwhole
    exact hwhole
  · rw [settleContext_of_done hget h.running hend hparked] at hwhole
    obtain ⟨hfree, hothers, hports, hmem, hclu, hixc, hstu, hctu, hswp, htmb, hnst, hmif, hparams, -⟩ :=
      finishContext_parts n (contextPut n c' t)
    have hbte : t.bte = (itemBegun n s).bte := by
      have hwork_bte := itemWork_bte n (contextGet s n) i (itemBegun n s)
      rw [hwork] at hwork_bte
      exact hwork_bte
    have hanswer : batchAnswer c' = .batchDone (c.cursor + 1) (c'.outcomes.map itemOutcome) := by
      unfold batchAnswer
      rw [if_neg (by rw [show c'.cancelled = false from h.cancelled]; decide)]
      rfl
    rw [hget, hanswer] at hports
    refine ⟨_, hwhole, hfree, fun m hm => ?_, ?_, hmem, hclu, hixc, hstu,
      hctu, hswp, htmb, hnst, hmif, hparams⟩
    swap
    · exact hports.trans (answer_ports_congr (s := t) (t := contextPut n c' t) rfl rfl c.port c.tag c.mark _)
    rw [hothers m hm, contextGet_contextPut, if_neg (Ne.symm hm), contextGet, hbte]
    rfl

end

/-! ## One work for a request and for an item (R28, R43, R115) -/

theorem setOccupancy_claimPut (k n : Nat) (r : ClaimRec) (s : State) :
    setOccupancy k (claimPut n r s) = claimPut n r (setOccupancy k s) := by
  unfold setOccupancy evalOccupancy
  symm
  apply apply_ite (claimPut n r)

theorem countNs_claimPut (ns : Nat) (c : NsCounter) (k n : Nat) (r : ClaimRec) (s : State) :
    countNs ns c k (claimPut n r s) = claimPut n r (countNs ns c k s) := by
  unfold countNs
  split
  · unfold countOne
    symm
    apply apply_ite (claimPut n r)
  · rfl

/-- Two works that differ in the waiter alone: the outcomes agree, and the states differ in one claim record at most, by
the claimant or by the waiter that parked last. -/
def SameButWaiter {α : Type} (wa wb : Waiter) (t u : State × α) : Prop :=
  t.2 = u.2 ∧ (t.1 = u.1 ∨ ∃ n v ra rb, t.1 = claimPut n ra v ∧ u.1 = claimPut n rb v ∧
    ((∃ r : ClaimRec, ra = { r with claimant := some wa } ∧ rb = { r with claimant := some wb }) ∨
      (∃ r : ClaimRec, ra = { r with waiters := r.waiters ++ [wa] } ∧ rb = { r with waiters := r.waiters ++ [wb] })))

theorem SameButWaiter.of_eq {α : Type} (wa wb : Waiter) (t : State × α) : SameButWaiter wa wb t t := ⟨rfl, .inl rfl⟩

section
variable (p : Port) (ns : Nat) (a b : Origin)

theorem requestWaiter_sameButWaiter (claim : BitVec 16) (s : State) :
    SameButWaiter { port := p, ns := ns, origin := a } { port := p, ns := ns, origin := b }
      (requestWaiter { port := p, ns := ns, origin := a } claim s)
      (requestWaiter { port := p, ns := ns, origin := b } claim s) := by
  unfold requestWaiter
  split
  · exact .of_eq _ _ _
  · split
    · refine ⟨rfl, .inr ⟨claim.toNat, countNs ns .lookups 1 s, _, _, countNs_claimPut _ _ _ _ _ _,
        countNs_claimPut _ _ _ _ _ _, .inr ⟨claimGet s claim.toNat, rfl, rfl⟩⟩⟩
    · exact .of_eq _ _ _

theorem insertEntry_sameButWaiter (fp : Fingerprint) (s : State) :
    SameButWaiter { port := p, ns := ns, origin := a } { port := p, ns := ns, origin := b }
      (insertEntry { port := p, ns := ns, origin := a } fp s)
      (insertEntry { port := p, ns := ns, origin := b } fp s) := by
  unfold insertEntry
  split
  · exact .of_eq _ _ _
  · next slot _ =>
    split
    · exact .of_eq _ _ _
    · next n _ =>
      have hinserted : ∀ r : ClaimRec,
          countNs ns .claims 1 (countNs ns .lookups 1
            (setOccupancy (s.ixc.occupancy + 1) (slotPut slot (imagePending fp n) (claimPut n r s)))) =
          claimPut n r (countNs ns .claims 1 (countNs ns .lookups 1
            (setOccupancy (s.ixc.occupancy + 1) (slotPut slot (imagePending fp n) s)))) := fun r => by
        have hslot : slotPut slot (imagePending fp n) (claimPut n r s) =
            claimPut n r (slotPut slot (imagePending fp n) s) := rfl
        rw [hslot, setOccupancy_claimPut, countNs_claimPut, countNs_claimPut]
      refine ⟨rfl, .inr ⟨n, _, _, _, hinserted _, hinserted _, .inl ⟨?_, ?_, ?_⟩⟩⟩
      · exact grantRecord s (claimGet s n) slot fp { port := p, ns := ns, origin := a }
      · rfl
      · rfl

theorem lookupMatch_sameButWaiter (wait : Bool) (slot : Nat) (s : State) :
    SameButWaiter { port := p, ns := ns, origin := a } { port := p, ns := ns, origin := b }
      (lookupMatch { port := p, ns := ns, origin := a } wait slot s)
      (lookupMatch { port := p, ns := ns, origin := b } wait slot s) := by
  unfold lookupMatch
  dsimp only
  split
  · split
    · exact requestWaiter_sameButWaiter p ns a b _ _
    · exact .of_eq _ _ _
  all_goals exact .of_eq _ _ _

/-- A LOOKUP's work is the same for a single request and an item but for the waiter it leaves (R28, R43, R115). -/
theorem lookupCore_sameButWaiter (fp : Fingerprint) (wait : Bool) (s : State) :
    SameButWaiter { port := p, ns := ns, origin := a } { port := p, ns := ns, origin := b }
      (lookupCore { port := p, ns := ns, origin := a } fp wait s)
      (lookupCore { port := p, ns := ns, origin := b } fp wait s) := by
  unfold lookupCore
  split
  · exact .of_eq _ _ _
  · dsimp only
    split
    · exact lookupMatch_sameButWaiter p ns a b wait _ _
    · obtain ⟨hout, hstate⟩ := insertEntry_sameButWaiter p ns a b fp (searchIndex fp s).1
      exact ⟨congrArg some hout, hstate⟩

end

/-- What the two works leave of each claim record. -/
theorem SameButWaiter.claims {α : Type} {wa wb : Waiter} {t u : State × α} (h : SameButWaiter wa wb t u) :
    t.2 = u.2 ∧ u.1 = { t.1 with clu := { t.1.clu with claims := u.1.clu.claims } } ∧
    ∀ n,
      claimGet t.1 n = claimGet u.1 n ∨
      (∃ r : ClaimRec, claimGet t.1 n = { r with claimant := some wa } ∧ claimGet u.1 n = { r with claimant := some wb }) ∨
      (∃ r : ClaimRec, claimGet t.1 n = { r with waiters := r.waiters ++ [wa] } ∧
        claimGet u.1 n = { r with waiters := r.waiters ++ [wb] }) := by
  obtain ⟨hout, hsame | ⟨n, v, ra, rb, ht, hu, hrecords⟩⟩ := h
  · exact ⟨hout, by rw [hsame], fun n => .inl (by rw [hsame])⟩
  · refine ⟨hout, by rw [ht, hu]; rfl, fun m => ?_⟩
    rw [ht, hu, claimGet_claimPut, claimGet_claimPut]
    by_cases hm : n = m
    · rw [if_pos hm, if_pos hm]
      exact .inr hrecords
    · rw [if_neg hm, if_neg hm]
      exact .inl rfl

/-! ## The item presented next (R114) -/

theorem presentItem_of_held {s : State} (h : s.bte.held ≠ none) : presentItem s = s := by
  unfold presentItem
  split
  · rfl
  · next hnone => exact absurd hnone h

theorem presentItem_of_none {s : State} (h : nextContext s = none) : presentItem s = s := by
  unfold presentItem
  rw [h]
  split <;> rfl

theorem presentItem_of_some {s : State} {n : Nat} (hheld : s.bte.held = none) (h : nextContext s = some n) :
    presentItem s = { s with bte := { s.bte with held := some n, rotation := (n + 1) % 8 } } := by
  unfold presentItem
  rw [hheld, h]
  rfl

theorem nextContext_none {s : State} (h : ∀ n, n < 8 → hasItem (contextGet s n) = false) : nextContext s = none := by
  refine List.find?_eq_none.mpr fun n hn => ?_
  obtain ⟨i, -, rfl⟩ := List.mem_map.mp hn
  have hlt : (s.bte.rotation + i) % Config.batchContexts < 8 := Nat.mod_lt _ (by decide)
  rw [h _ hlt]
  decide

/-- Counting onward from the rotation pointer, the first context with an item is presented (R114). -/
theorem nextContext_some {s : State} {d : Nat} (hd : d < 8)
    (hitem : hasItem (contextGet s ((s.bte.rotation + d) % 8)) = true)
    (hbefore : ∀ d', d' < d → hasItem (contextGet s ((s.bte.rotation + d') % 8)) = false) :
    nextContext s = some ((s.bte.rotation + d) % 8) := by
  unfold nextContext
  rw [List.find?_map, Option.map_eq_some_iff]
  refine ⟨d, List.find?_range_eq_some.mpr ⟨hitem, List.mem_range.mpr hd, fun d' hd' => ?_⟩, rfl⟩
  change (!hasItem (contextGet s ((s.bte.rotation + d') % 8))) = true
  rw [hbefore d' hd']
  rfl

/-- Settles O52: turns by the shared work, the work by its waiter, the item by the settling of its context. -/
theorem batchItemRunsAndRecords : Obligations.BatchItemRunsAndRecords := by
  refine ⟨fun s p e fp hturn => ?_, fun s p ns a b fp wait => (lookupCore_sameButWaiter p ns a b fp wait s).claims,
    fun s n i hpow hnext hheld hrunning hcancelled hitem => ?_, fun s => ?_⟩
  · intro s0
    refine ⟨fun wait hkind hreq => ?_, fun hkind hreq => ?_, fun k hkind hreq => ?_⟩
    · intro r
      exact ⟨fun o ho => lookupTurn_answered hturn hkind hreq (Prod.ext rfl ho),
        fun ho => lookupTurn_parked hturn hkind hreq (Prod.ext rfl ho)⟩
    · exact congrArg _ (turn_answered hturn hkind (by simp only [probeOf, hreq, indexAnswer]; rfl) (probeCore_quiet fp s0))
    · exact releaseTurn_answered hturn hkind hreq rfl
  · intro s0 c t o hlookup hprobe hrelease
    have hwork : itemWork n c i s0 = (t, o) := by
      unfold itemWork
      split
      · next hkind => exact hlookup hkind
      · next hkind =>
        obtain ⟨hcore, hsome⟩ := hprobe hkind
        obtain ⟨x, rfl⟩ := Option.ne_none_iff_exists'.mp hsome
        rw [hcore]
        rfl
      · next hkind =>
        obtain ⟨hcore, hsome⟩ := hrelease hkind
        obtain ⟨x, rfl⟩ := Option.ne_none_iff_exists'.mp hsome
        rw [hcore]
        rfl
    exact batchItem_settles ⟨hpow, hnext, hheld, hrunning, hcancelled, hitem⟩ hwork
  · exact ⟨presentItem_of_held, fun _ hnone => presentItem_of_none (nextContext_none hnone),
      fun d hd hheld hitem hbefore => presentItem_of_some hheld (nextContext_some hd hitem hbefore)⟩

/-! ## The fingerprint of zero bytes (R1, R115) -/

theorem lookupCore_zero (w : Waiter) (wait : Bool) (s : State) :
    lookupCore w 0#256 wait s = (s, some .badFingerprint) := by
  unfold lookupCore
  rw [if_pos rfl]

theorem probeCore_zero (s : State) : probeCore 0#256 s = (s, .badFingerprint) := by
  unfold probeCore
  rw [if_pos rfl]

theorem refCore_zero (k : Nat) (s : State) : refCore 0#256 k s = (s, .badFingerprint) := by
  unfold refCore
  rw [if_pos rfl]

theorem releaseCore_zero (p : Port) (ns k : Nat) (s : State) : releaseCore p ns 0#256 k s = (s, .badFingerprint) := by
  unfold releaseCore
  rw [if_pos rfl]

theorem moveCore_zero (p : Port) (src dst off len : Nat) (s : State) :
    moveCore p 0#256 src dst off len s = (s, .index .badFingerprint) := by
  unfold moveCore
  rw [if_pos rfl]

theorem restoreCore_zero {r : RestoreBody} (h : r.fp = 0#256) (s : State) :
    restoreCore r s = (s, .index .badFingerprint) := by
  unfold restoreCore
  exact if_pos h

theorem itemWork_zero (n : Nat) (c : Context) {i : BatchItem} (h : i.fp = 0#256) (s : State) :
    itemWork n c i s = (s, some .badFingerprint) := by
  unfold itemWork
  split
  · rw [h, lookupCore_zero]
  · rw [h, probeCore_zero]
  · rw [h, releaseCore_zero]

/-- The kind named by a request that has the turn. -/
theorem turn_kind {p : Port} {e : QEntry} {c : Instr} {k : Kind} (hk : requestKind e.request = e.kind)
    (hc : turnCommand e.kind p .whole = some c) (hreq : requestKind e.request = k) :
    e.kind = k ∧ turnCommand k p .whole = some c := by
  have hkind : e.kind = k := hk.symm.trans hreq
  rw [hkind] at hc
  exact ⟨hkind, hc⟩

/-- Settles O47: the first test of each kind's work, and of an item's. -/
theorem zeroFingerprintIsRefused : Obligations.ZeroFingerprintIsRefused := by
  refine ⟨fun s p e c hturn hc hk hzero => ?_, fun s p e tok l htake => ⟨fun hkind hreq => ?_, fun hkind hreq => ?_⟩,
    fun s n i hpow hnext hheld hrunning hcancelled hitem hzero => ?_⟩
  · rcases hzero with ⟨w, hreq⟩ | hreq | ⟨k, hreq⟩ | ⟨k, hreq⟩ | ⟨src, dst, off, len, hreq⟩ | ⟨r, hreq, hfp⟩ <;>
      obtain ⟨hkind, hcommand⟩ := turn_kind hk hc (congrArg requestKind hreq) <;> cases hcommand
    · exact lookupTurn_answered hturn hkind hreq (lookupCore_zero _ _ _)
    · exact congrArg _ (turn_answered hturn hkind (by simp only [probeOf, hreq, probeCore_zero, indexAnswer]) .rfl)
    · exact congrArg _ (turn_answered hturn hkind (by simp only [refOf, hreq, refCore_zero, indexAnswer]) .rfl)
    · exact releaseTurn_answered hturn hkind hreq (releaseCore_zero _ _ _ _)
    · exact congrArg _ (turn_answered hturn hkind (by simp only [moveOf, hreq, moveCore_zero]) .rfl)
    · exact congrArg _ (turn_answered hturn hkind (by simp only [restoreOf, hreq, restoreCore_zero hfp]) .rfl)
  · refine congrArg _ ((request_taken htake hkind takeCommit).trans ?_)
    simp only [takeCommit, hreq, if_true, answerEntry_canTake htake]
  · refine congrArg _ ((request_taken htake hkind takeAbandon).trans ?_)
    simp only [takeAbandon, hreq, if_true, answerEntry_canTake htake]
  · exact batchItem_settles ⟨hpow, hnext, hheld, hrunning, hcancelled, hitem⟩ (itemWork_zero n _ hzero _)

end Sys2Proof.Machine
end

section
/-! Claims: the requests that name them, their release and expiry, and the claim unit's two updates (R43 to R62). -/

namespace Sys2Proof.Machine

/-! ## Tokens and the claim unit's own requests (R46, R54, R56, R61, R62) -/

/-- The five tests of a token (R46). -/
def TokenValid (s : State) (p : Port) (tok : Token) : Prop :=
  tok.startCount = s.mif.startCount ∧ tok.claim.toNat < 1024 ∧ (claimGet s tok.claim.toNat).phase = .held ∧
    tok.generation = (claimGet s tok.claim.toNat).generation ∧
    ∃ w, (claimGet s tok.claim.toNat).claimant = some w ∧ w.port = p

theorem validToken_eq (s : State) (p : Port) (tok : Token) [Decidable (TokenValid s p tok)] :
    validToken s p tok = if TokenValid s p tok then some (claimGet s tok.claim.toNat) else none := by
  unfold validToken
  refine if_congr ?_ rfl rfl
  simp only [TokenValid, Option.map_eq_some_iff]
  rfl

theorem validToken_of {s : State} {p : Port} {tok : Token} (h : TokenValid s p tok) :
    validToken s p tok = some (claimGet s tok.claim.toNat) := by
  classical
  rw [validToken_eq, if_pos h]

theorem validToken_of_not {s : State} {p : Port} {tok : Token} (h : ¬ TokenValid s p tok) :
    validToken s p tok = none := by
  classical
  rw [validToken_eq, if_neg h]

/-- A claim record after waiters left its list (R62, R65, R123). -/
theorem claimGet_removeWaiters {s : State} (gone : Waiter → Bool) (h : tableWf ClaimRec.zero s.clu.claims = true)
    (n : Nat) : claimGet (removeWaiters gone s) n =
      { claimGet s n with waiters := (claimGet s n).waiters.filter (fun w => !gone w) } :=
  tableGet_map ClaimRec.zero (fun _ r => { r with waiters := r.waiters.filter (fun w => !gone w) }) _ n rfl h

theorem isBatchKind_iff (k : Kind) :
    isBatchKind k = true ↔ k = .lookupBatch ∨ k = .probeBatch ∨ k = .releaseBatch := by
  simp [isBatchKind, or_assoc]

/-- Settles O48: the tests in their order, and what the last of them leads to. -/
theorem claimRequestsAreTested : Obligations.ClaimRequestsAreTested := by
  intro s p e htake hwf
  refine ⟨fun tok fp hfp => ?_, fun target hkind hreq => ?_⟩
  · intro n r valid
    refine ⟨fun l hkind hreq => ?_, fun hkind hreq => ?_⟩
    · have hrun : exec (.commit p (.take e.tag)) s = .next (takeCommit p e s) :=
        congrArg _ (request_taken htake hkind takeCommit)
      rw [hrun]
      simp only [takeCommit, hreq, hfp, if_false]
      refine ⟨fun hnot => ?_, fun hvalid hne => ?_, fun hvalid heq => ?_⟩
      · rw [validToken_of_not hnot]
        exact congrArg _ (answerEntry_canTake htake _)
      · rw [validToken_of hvalid]
        exact congrArg _ ((if_pos hne).trans (answerEntry_canTake htake _))
      · rw [validToken_of hvalid]
        exact congrArg _ (if_neg (not_not.mpr heq))
    · have hrun : exec (.abandon p (.take e.tag)) s = .next (takeAbandon p e s) :=
        congrArg _ (request_taken htake hkind takeAbandon)
      rw [hrun]
      simp only [takeAbandon, hreq, hfp, if_false]
      refine ⟨fun hnot => ?_, fun hvalid => ?_⟩
      · rw [validToken_of_not hnot]
        exact congrArg _ (answerEntry_canTake htake _)
      · rw [validToken_of hvalid]
        rfl
  · have hrun : exec (.cancel p (.take e.tag)) s = .next (takeCancel p e s) :=
      congrArg _ (request_taken htake hkind takeCancel)
    rw [hrun]
    simp only [takeCancel, hreq]
    refine ⟨fun hnone => ?_, fun x hx => ⟨fun hparked => ?_, fun hparked hbatch => ?_, fun hparked hbatch => ?_⟩⟩
    · rw [hnone]
      exact congrArg _ (answerEntry_canTake htake _)
    · rw [hx]
      exact ⟨removeWaiters (isSingleWaiter p target) s, congrArg _ (if_pos hparked), rfl,
        claimGet_removeWaiters (isSingleWaiter p target) hwf⟩
    · rw [hx]
      exact congrArg _ ((if_neg hparked).trans (if_pos ((isBatchKind_iff _).mpr hbatch)))
    · rw [hx]
      exact congrArg _ ((if_neg hparked).trans ((if_neg fun h => hbatch ((isBatchKind_iff _).mp h)).trans
        (answerEntry_canTake htake _)))

/-! ## Release-of-claim and expiry (R47, R50 to R52, R55) -/

theorem answerWaiter_single {w : Waiter} {tag : Tag} {mark : Session} (h : w.origin = .single tag mark)
    (o : IndexOutcome) (s : State) : answerWaiter w o s = answer w.port tag mark (.index o) s := by
  unfold answerWaiter
  rw [h]

theorem answerWaiter_item {w : Waiter} {ctx idx : Nat} (h : w.origin = .item ctx idx) (o : IndexOutcome) (s : State) :
    answerWaiter w o s = sendBte (.itemAnswer ctx idx w.port o) s := by
  unfold answerWaiter
  rw [h]

theorem releaseClaim_closes {s : State} {n : Nat} (h : (claimGet s n).waiters = []) :
    releaseClaim n s = closeClaim n s := by
  unfold releaseClaim
  rw [h]

theorem releaseClaim_handsOver {s : State} {n : Nat} {w : Waiter} {rest : List Waiter}
    (h : (claimGet s n).waiters = w :: rest) : releaseClaim n s = handOver n w rest s := by
  unfold releaseClaim
  rw [h]

theorem cluBusy_of_idle {s : State}
    (h : ∀ m, s.ixc.inProgress ≠ some (.entryUpdate m) ∧ s.ixc.inProgress ≠ some (.freeing m)) :
    cluBusy s = false := by
  rw [← Bool.not_eq_true, cluBusy_iff]
  rintro ⟨m, hm | hm⟩
  · exact (h m).1 hm
  · exact (h m).2 hm

theorem claimDue_iff (s : State) (n : Nat) :
    claimDue s n = true ↔ (claimGet s n).phase = .held ∧ (claimGet s n).deadline ≤ s.tmb.ms := by
  simp [claimDue]

theorem expireClaim_of {s : State} {n : Nat} {w : Waiter} (h : (claimGet s n).claimant = some w) :
    expireClaim n s = releaseClaim n (countPort w.port .expiredClaims 1 (raiseTo w.port .claimExpired s)) := by
  unfold expireClaim
  rw [h]

/-- Settles O49: release-of-claim by the waiter list, and the expiry by the deadline. -/
theorem releasedClaimsAreHandedOver : Obligations.ReleasedClaimsAreHandedOver := by
  refine ⟨fun s n => ⟨fun hnone => releaseClaim_closes hnone, fun w rest hwaiters => ?_⟩, fun s n hpow hidle =>
    ⟨fun w hheld hdue hclaimant => ?_, fun hnot => ?_⟩⟩
  · intro t o
    have hrelease : releaseClaim n s = answerWaiter w o t := releaseClaim_handsOver hwaiters
    exact ⟨fun tag mark horigin => hrelease.trans (answerWaiter_single horigin o t),
      fun ctx idx horigin => hrelease.trans (answerWaiter_item horigin o t)⟩
  · have hdueNow : (claimDue s n && !cluBusy s) = true := by
      rw [(claimDue_iff s n).mpr ⟨hheld, hdue⟩, cluBusy_of_idle hidle]
      rfl
    exact congrArg _ ((if_pos hpow).trans ((doWhen_of _ _ hdueNow).trans (expireClaim_of hclaimant)))
  · refine congrArg _ ((if_pos hpow).trans (doWhen_of_not _ _ ?_))
    rw [ne_eq, Bool.and_eq_true, claimDue_iff]
    rintro ⟨⟨hheld, hdue⟩, -⟩
    exact hnot.elim (· hheld) fun hlt => absurd hdue (Nat.not_le.mpr hlt)

/-! ## The claim unit's updates (R53, R57 to R59) -/

/-- A whole turn is the grant and what its operation does. -/
theorem turn_whole {s : State} {grant : State → Option (State × Turn)} {finish : Turn → State → State}
    {mine : Turn → Bool} {g : State × Turn} (hpow : s.powered = true) (h : grant s = some g) :
    whenPowered s (runTurn grant finish mine .whole) = finish g.2 g.1 := by
  simp only [whenPowered, hpow, if_true, runTurn, h]

/-- The slot names the claim (R53, R57). -/
theorem namesClaim_iff (im : SlotImage) (n : Nat) (fp : Fingerprint) :
    namesClaim im n fp = true ↔ imageState im = some .pending ∧ im.claim = BitVec.ofNat 16 n ∧ im.fp = fp := by
  rw [namesClaim, Bool.and_eq_true, Bool.and_eq_true, decide_eq_true_iff, decide_eq_true_iff, decide_eq_true_iff,
    and_assoc]

/-- The state in which an update finds its slot: verified, and made to name the claim (R53, R57). -/
theorem verifyClaimed_of {s t : State} {n : Nat}
    (hnamed : namesClaim (slotGet (verifySlot (claimGet s n).position s) (claimGet s n).position) n (claimGet s n).fp =
      true → t = verifySlot (claimGet s n).position s)
    (hother : ¬ namesClaim (slotGet (verifySlot (claimGet s n).position s) (claimGet s n).position) n
      (claimGet s n).fp = true →
      t = slotPut (claimGet s n).position (imagePending (claimGet s n).fp n) (verifySlot (claimGet s n).position s)) :
    verifyClaimed n s = t := by
  unfold verifyClaimed
  dsimp only
  split
  · next h => exact (hnamed h).symm
  · next h => exact (hother h).symm

section
variable {s s1 : State} {n : Nat} {w : Waiter} {d : CommitDetails}

theorem commitClaim_refused {a : Answer} (hverified : verifyClaimed n s = s1)
    (hclaimant : (claimGet s1 n).claimant = some w) (hdetails : (claimGet s1 n).details = some d)
    (htest : placementTest s1 w.port d.loc.container.toNat d.loc.offset.toNat d.loc.length.toNat = some a) :
    commitClaim n s = refuseCommit n w.port d a s1 := by
  unfold commitClaim
  simp only [hverified, hclaimant, hdetails, htest]

theorem commitClaim_passed (hverified : verifyClaimed n s = s1)
    (hclaimant : (claimGet s1 n).claimant = some w) (hdetails : (claimGet s1 n).details = some d)
    (htest : placementTest s1 w.port d.loc.container.toNat d.loc.offset.toNat d.loc.length.toNat = none) :
    commitClaim n s = passCommit n w d s1 := by
  unfold commitClaim
  simp only [hverified, hclaimant, hdetails, htest]

/-- The record of a refused commit is HELD again, with its claimant and deadline (R57). -/
theorem claimGet_refused (p : Port) (a : Answer) :
    claimGet (answer p d.tag d.mark a (claimPut n { claimGet s1 n with phase := .held, details := none } s1)) n =
      { claimGet s1 n with phase := .held, details := none } := by
  have hclu : (answer p d.tag d.mark a (claimPut n { claimGet s1 n with phase := .held, details := none } s1)).clu =
      (claimPut n { claimGet s1 n with phase := .held, details := none } s1).clu := by simp
  rw [claimGet, hclu]
  exact claimGet_claimPut_same _ _ _

theorem refuseCommit_kept {a : Answer} (hearly : s1.tmb.ms < (claimGet s1 n).deadline) :
    refuseCommit n w.port d a s1 =
      answer w.port d.tag d.mark a (claimPut n { claimGet s1 n with phase := .held, details := none } s1) := by
  unfold refuseCommit
  refine if_neg ?_
  rw [claimDue_iff, claimGet_refused]
  simp [hearly]

theorem refuseCommit_expires {a : Answer} (hclaimant : (claimGet s1 n).claimant = some w)
    (hdue : (claimGet s1 n).deadline ≤ s1.tmb.ms) :
    refuseCommit n w.port d a s1 =
      releaseClaim n (countPort w.port .expiredClaims 1 (raiseTo w.port .claimExpired
        (answer w.port d.tag d.mark a (claimPut n { claimGet s1 n with phase := .held, details := none } s1)))) := by
  unfold refuseCommit
  refine (if_pos ?_).trans (expireClaim_of ?_)
  · rw [claimDue_iff, claimGet_refused]
    simp [hdue]
  · rw [claimGet_refused]
    exact hclaimant

theorem freeClaimed_alone (hverified : verifyClaimed n s = s1) (h : (claimGet s1 n).waiters = []) :
    freeClaimed n s =
      claimPut n (freedRecord (claimGet s1 n))
        (setOccupancy (s1.ixc.occupancy - 1) (slotPut (claimGet s1 n).position SlotImage.free s1)) := by
  unfold freeClaimed
  simp only [hverified, h]

theorem freeClaimed_parked (hverified : verifyClaimed n s = s1) (h : (claimGet s1 n).waiters ≠ []) :
    freeClaimed n s = releaseClaim n s1 := by
  obtain ⟨w, rest, hwaiters⟩ := List.exists_cons_of_ne_nil h
  rw [releaseClaim_handsOver hwaiters]
  unfold freeClaimed
  simp only [hverified, hwaiters]

end

/-- Settles O50: each update from the state in which it finds its slot. -/
theorem claimUpdatesAreTheirRules : Obligations.ClaimUpdatesAreTheirRules := by
  refine ⟨fun s w o => ⟨fun tag mark h => answerWaiter_single h o s, fun ctx idx h => answerWaiter_item h o s⟩,
    fun s n rest hpow hnext hup => ?_, fun s n rest hpow hnext hup => ?_⟩
  · intro s0 verified slot named s1 hnamed hother w d hclaimant hdetails r c off len refuses
    have hverified : verifyClaimed n s0 = s1 :=
      verifyClaimed_of (fun h => hnamed ((namesClaim_iff _ _ _).mp h)) fun h =>
        hother fun hn => h ((namesClaim_iff _ _ _).mpr hn)
    have hrun : exec (.commitEntryUpdate .whole) s = .next (endTurn (commitClaim n s0)) :=
      congrArg _ (turn_whole (finish := finishClu) (mine := isEntryTurn) hpow
        (grantClu_some (pick := entryTurn) hnext hup rfl))
    have hrefused : ∀ {a}, placementTest s1 w.port d.loc.container.toNat off len = some a → refuses a := by
      intro a htest
      have hcommit := commitClaim_refused hverified hclaimant hdetails htest
      exact ⟨fun hearly => by rw [hrun, hcommit, refuseCommit_kept hearly],
        fun hdue => by rw [hrun, hcommit, refuseCommit_expires hclaimant hdue]⟩
    have htest := placementTest_eq s1 w.port d.loc.container.toNat off len
    refine ⟨fun hnot => hrefused (htest.trans (if_pos hnot)), fun hopen howner hlt => hrefused (htest.trans ?_),
      fun hopen howner hfill hlt => hrefused (htest.trans ?_), fun hopen howner hfill hfits => ?_⟩
    · rw [if_neg (not_or.mpr ⟨not_not.mpr hopen, not_not.mpr howner⟩), if_pos hlt]
    · rw [if_neg (not_or.mpr ⟨not_not.mpr hopen, not_not.mpr howner⟩), if_neg (Nat.not_lt.mpr hfill), if_pos hlt]
    · rw [if_neg (not_or.mpr ⟨not_not.mpr hopen, not_not.mpr howner⟩), if_neg (Nat.not_lt.mpr hfill),
        if_neg (Nat.not_lt.mpr hfits)] at htest
      rw [hrun, commitClaim_passed hverified hclaimant hdetails htest]
      rfl
  · intro s0 verified slot named s1 hnamed hother r
    have hverified : verifyClaimed n s0 = s1 :=
      verifyClaimed_of (fun h => hnamed ((namesClaim_iff _ _ _).mp h)) fun h =>
        hother fun hn => h ((namesClaim_iff _ _ _).mpr hn)
    have hrun : exec (.freeingUpdate .whole) s = .next (endTurn (freeClaimed n s0)) :=
      congrArg _ (turn_whole (finish := finishClu) (mine := isFreeingTurn) hpow
        (grantClu_some (pick := freeingTurn) hnext hup rfl))
    rw [hrun]
    exact ⟨fun hnone => by rw [freeClaimed_alone hverified hnone]; rfl,
      fun hsome => by rw [freeClaimed_parked hverified hsome]⟩

end Sys2Proof.Machine
end

section
/-! The claim unit's messages to the batch engine, cancellations and withdrawals (R111, R118 to R125). -/

namespace Sys2Proof.Machine

/-! ## The message at the head of the path (R111) -/

theorem bteBusy_of_idle {s : State} (h : ∀ n, s.ixc.inProgress ≠ some (.item n)) : bteBusy s = false := by
  rw [← Bool.not_eq_true, bteBusy_iff]
  exact fun ⟨n, hn⟩ => h n hn

/-- The path without the message at its head. -/
def inboxRest (rest : List BteMessage) (s : State) : State := { s with bte := { s.bte with inbox := rest } }

section
variable {s : State} {m : BteMessage} {rest : List BteMessage}

theorem headMessage_of (hidle : ∀ n, s.ixc.inProgress ≠ some (.item n)) (hin : s.bte.inbox = m :: rest) :
    headMessage s = some m := by
  unfold headMessage
  rw [bteBusy_of_idle hidle, hin]
  rfl

theorem dropMessage_of (hin : s.bte.inbox = m :: rest) : dropMessage s = inboxRest rest s := by
  unfold dropMessage inboxRest
  rw [hin]
  rfl

theorem exec_itemAnswer {n i : Nat} {p : Port} {o : IndexOutcome} (hpow : s.powered = true)
    (hidle : ∀ n, s.ixc.inProgress ≠ some (.item n)) (hin : s.bte.inbox = .itemAnswer n i p o :: rest) :
    exec .itemAnswer s = .next (takeItemAnswer n i p o (inboxRest rest s)) := by
  refine congrArg _ ((if_pos hpow).trans ?_)
  simp only [headMessage_of hidle hin, dropMessage_of hin]

theorem exec_withdrawalAnswer {n : Nat} {p : Port} {idxs : List Nat} (hpow : s.powered = true)
    (hidle : ∀ n, s.ixc.inProgress ≠ some (.item n)) (hin : s.bte.inbox = .withdrawalAnswer n p idxs :: rest) :
    exec .withdrawalAnswer s = .next (takeWithdrawalAnswer n p idxs (inboxRest rest s)) := by
  refine congrArg _ ((if_pos hpow).trans ?_)
  simp only [headMessage_of hidle hin, dropMessage_of hin]

theorem exec_teardownCompletion {p : Port} (hpow : s.powered = true)
    (hidle : ∀ n, s.ixc.inProgress ≠ some (.item n)) (hin : s.bte.inbox = .teardownCompletion p :: rest) :
    exec .teardownCompletion s = .next (takeCompletion p (inboxRest rest s)) := by
  refine congrArg _ ((if_pos hpow).trans ?_)
  simp only [headMessage_of hidle hin, dropMessage_of hin]

theorem exec_batchCancellation {p : Port} {target tag : Tag} {mark : Session} (hpow : s.powered = true)
    (hidle : ∀ n, s.ixc.inProgress ≠ some (.item n)) (hin : s.bte.inbox = .cancellation p target tag mark :: rest) :
    exec .batchCancellation s = .next (takeCancellation p target tag mark (inboxRest rest s)) := by
  refine congrArg _ ((if_pos hpow).trans ?_)
  simp only [headMessage_of hidle hin, dropMessage_of hin]

end

theorem contextGet_inboxRest (rest : List BteMessage) (s : State) (n : Nat) :
    contextGet (inboxRest rest s) n = contextGet s n := rfl

theorem contextInUse_iff (c : Context) :
    contextInUse c = true ↔ c.phase = .running ∨ c.phase = .awaiting ∨ c.phase = .finished := by
  simp [contextInUse, or_assoc]

/-- A context written, and finished where it is AWAITING with nothing outstanding (R119, R120). -/
theorem completeContext_contextPut (n : Nat) (c : Context) (s : State) :
    completeContext n (contextPut n c s) =
      if c.phase = .awaiting ∧ c.parked = 0 ∧ c.withdrawal = false then
        contextPut n Context.zero
          (answer c.port c.tag c.mark
            (if c.cancelled = true then .cancelled c.cursor (c.outcomes.map itemOutcome)
              else .batchDone c.cursor (c.outcomes.map itemOutcome)) (contextPut n c s))
      else contextPut n c s := by
  unfold completeContext finishContext
  simp only [contextGet_contextPut_same]
  rfl

/-! ## Items withdrawn (R123) -/

/-- One item answered WITHDRAWN where it is parked (R123); `withdrawItems` does so for each index. -/
def withdrawItem (c : Context) (i : Nat) : Context :=
  if c.outcomes[i]? = some .parked then
    { c with outcomes := c.outcomes.set i (.answered .withdrawn), parked := c.parked - 1 }
  else c

theorem withdrawItems_cons (c : Context) (i : Nat) (rest : List Nat) :
    withdrawItems c (i :: rest) = withdrawItems (withdrawItem c i) rest := rfl

theorem withdrawItem_outcome (c : Context) (i j : Nat) :
    (withdrawItem c i).outcomes[j]? =
      if j = i ∧ c.outcomes[j]? = some .parked then some (.answered .withdrawn) else c.outcomes[j]? := by
  unfold withdrawItem
  by_cases hj : j = i
  · subst hj
    split
    · next h =>
      obtain ⟨hlt, -⟩ := List.getElem?_eq_some_iff.mp h
      rw [if_pos ⟨rfl, h⟩]
      exact List.getElem?_set_self hlt
    · next h => rw [if_neg fun hand => h hand.2]
  · have hne : i ≠ j := Ne.symm hj
    split <;> simp [hj, hne]

/-- Each parked item named is answered WITHDRAWN, and every other outcome stays (R123). -/
theorem withdrawItems_outcome (idxs : List Nat) (c : Context) (j : Nat) :
    (withdrawItems c idxs).outcomes[j]? =
      if j ∈ idxs ∧ c.outcomes[j]? = some .parked then some (.answered .withdrawn) else c.outcomes[j]? := by
  induction idxs generalizing c with
  | nil => simp [withdrawItems]
  | cons i rest ih =>
    rw [withdrawItems_cons, ih, withdrawItem_outcome]
    by_cases hj : j = i
    · subst hj
      by_cases hp : c.outcomes[j]? = some .parked <;> simp [hp]
    · simp [hj]

/-- The parked count goes down by the parked items named, each once (R123). -/
theorem withdrawItems_parked {idxs : List Nat} (h : idxs.Nodup) (c : Context) :
    (withdrawItems c idxs).parked = c.parked - idxs.countP (fun i => decide (c.outcomes[i]? = some .parked)) := by
  induction idxs generalizing c with
  | nil => rfl
  | cons i rest ih =>
    obtain ⟨hi, hrest⟩ := List.nodup_cons.mp h
    have hcount : rest.countP (fun j => decide ((withdrawItem c i).outcomes[j]? = some .parked)) =
        rest.countP (fun j => decide (c.outcomes[j]? = some .parked)) := by
      refine List.countP_congr fun j hj => ?_
      have hne : j ≠ i := fun heq => hi (heq ▸ hj)
      rw [withdrawItem_outcome, if_neg fun h => hne h.1]
    rw [withdrawItems_cons, ih hrest, hcount, List.countP_cons]
    unfold withdrawItem
    by_cases hp : c.outcomes[i]? = some .parked
    · simp only [hp, if_true, decide_true]
      omega
    · simp [hp]

/-- Withdrawing items changes outcomes and parked count alone. -/
theorem withdrawItems_eq (idxs : List Nat) (c : Context) :
    withdrawItems c idxs =
      { c with outcomes := (withdrawItems c idxs).outcomes, parked := (withdrawItems c idxs).parked } := by
  induction idxs generalizing c with
  | nil => rfl
  | cons i rest ih =>
    have hone : withdrawItem c i =
        { c with outcomes := (withdrawItem c i).outcomes, parked := (withdrawItem c i).parked } := by
      unfold withdrawItem
      split <;> rfl
    rw [withdrawItems_cons]
    generalize withdrawItem c i = c1 at *
    rw [ih c1]
    generalize (withdrawItems c1 rest).outcomes = outcomes
    generalize (withdrawItems c1 rest).parked = parked
    rw [hone]

/-- Settles O53: each message by whether the context it names can take it. -/
theorem claimUnitMessagesAreTaken : Obligations.ClaimUnitMessagesAreTaken := by
  intro s rest hpow hidle hwf s0 inUse settles
  have hsettles : ∀ c n, presentItem (completeContext n (contextPut n c s0)) = settles c n := fun c n => by
    rw [completeContext_contextPut]
    simp only [settles]
    split <;> rfl
  refine ⟨fun n i p o hin => ?_, fun n p idxs hin => ?_, fun p hin => ?_⟩
  · intro c
    rw [exec_itemAnswer hpow hidle hin]
    unfold takeItemAnswer
    simp only [contextGet_inboxRest, contextInUse_iff]
    refine ⟨fun huse hport hparked => ?_, fun hnot => ?_⟩
    · rw [if_pos ⟨huse, hport, hparked⟩]
      exact congrArg _ (hsettles _ n)
    · rw [if_neg fun ⟨huse, hport, hparked⟩ => hnot.elim (· huse) (·.elim (· hport) (· hparked))]
      rfl
  · intro c
    rw [exec_withdrawalAnswer hpow hidle hin]
    unfold takeWithdrawalAnswer
    simp only [contextGet_inboxRest, contextInUse_iff]
    refine ⟨fun huse hport hwithdrawal => ?_, fun hnot => ?_⟩
    · rw [if_pos ⟨huse, hport, hwithdrawal⟩]
      refine ⟨(withdrawItems c idxs).outcomes, (withdrawItems c idxs).parked, ?_, withdrawItems_outcome idxs c,
        fun hnodup => withdrawItems_parked hnodup c⟩
      have hcontext : { withdrawItems c idxs with withdrawal := false } =
          { c with
            outcomes := (withdrawItems c idxs).outcomes, parked := (withdrawItems c idxs).parked,
            withdrawal := false } := by
        rw [withdrawItems_eq]
      rw [← hcontext]
      exact congrArg _ (hsettles _ n)
    · have hfalse : ¬ c.withdrawal = true ∨ (¬ inUse c ∨ c.port ≠ p) := by
        rcases hnot with h | h | h
        · exact .inr (.inl h)
        · exact .inr (.inr h)
        · exact .inl (by rw [h]; decide)
      rw [if_neg fun ⟨huse, hport, hwithdrawal⟩ => hfalse.elim (· hwithdrawal) (·.elim (· huse) (· hport))]
      rfl
  · refine ⟨_, exec_teardownCompletion hpow hidle hin, fun n => ?_⟩
    exact tableGet_map _ (fun _ (c : Context) => if c.phase = .withheld p then Context.zero else c) _ n
      (if_neg (by simp [Context.zero])) hwf

/-! ## Cancellation of a batch (R122) -/

theorem findContext_inboxRest (rest : List BteMessage) (s : State) (p : Port) (tag : Tag) :
    findContext (inboxRest rest s) p tag = findContext s p tag := rfl

/-- The held operation given up where it is the context's (R122). -/
theorem withdrawHeld_context (n : Nat) (s : State) :
    withdrawHeld (fun m => decide (m = n)) s =
      { s with bte := { s.bte with held := if s.bte.held = some n then none else s.bte.held } } := by
  rw [withdrawHeld_eq]
  cases hheld : s.bte.held with
  | none => rfl
  | some m => by_cases hm : m = n <;> simp [hm]

theorem takeCancellation_none {s : State} {p : Port} {target : Tag} (tag : Tag) (mark : Session)
    (h : findContext s p target = none) : takeCancellation p target tag mark s = answer p tag mark .tooLate s := by
  unfold takeCancellation
  rw [h]

section
variable {s : State} {p : Port} {target : Tag} {n : Nat}

theorem takeCancellation_again (tag : Tag) (mark : Session) (h : findContext s p target = some n)
    (hcancelled : (contextGet s n).cancelled = true) :
    takeCancellation p target tag mark s = answer p tag mark .tooLate s := by
  unfold takeCancellation
  rw [h]
  exact if_pos hcancelled

theorem takeCancellation_first (tag : Tag) (mark : Session) (h : findContext s p target = some n)
    (hcancelled : (contextGet s n).cancelled = false) :
    takeCancellation p target tag mark s = presentItem (cancelContext n (answer p tag mark (.done .none) s)) := by
  unfold takeCancellation
  rw [h]
  exact if_neg (by rw [hcancelled]; decide)

end

theorem cancelContext_done {s : State} {n : Nat} (h : (contextGet s n).parked = 0) :
    cancelContext n s =
      finishContext n (contextPut n (cancelledContext (contextGet s n))
        { s with bte := { s.bte with held := if s.bte.held = some n then none else s.bte.held } }) := by
  unfold cancelContext
  simp only [withdrawHeld_context]
  exact if_pos h

theorem cancelContext_parked {s : State} {n : Nat} (h : (contextGet s n).parked ≠ 0) :
    cancelContext n s =
      { contextPut n { cancelledContext (contextGet s n) with withdrawal := true, phase := .awaiting }
          { s with bte := { s.bte with held := if s.bte.held = some n then none else s.bte.held } } with
        clu := { s.clu with withdrawals := s.clu.withdrawals ++ [(n, (contextGet s n).port)] } } := by
  unfold cancelContext
  simp only [withdrawHeld_context]
  exact if_neg h

/-! ## Withdrawal requests (R123) -/

/-- The items of a withdrawal answer: those of the batch's waiters (R123). -/
theorem mem_withdrawn (s : State) (n : Nat) (p : Port) (i : Nat) :
    i ∈ (waitersWhere (isItemWaiter n p) s).filterMap waiterItem ↔
      ∃ x ∈ s.clu.claims, ∃ w ∈ x.2.waiters, w.port = p ∧ w.origin = .item n i := by
  have hwaiter : ∀ w, (isItemWaiter n p w = true ∧ waiterItem w = some i) ↔ w.port = p ∧ w.origin = .item n i := by
    intro w
    unfold isItemWaiter waiterItem
    cases w.origin with
    | single tag mark => simp
    | item ctx idx => simp [and_assoc]
  simp only [List.mem_filterMap, waitersWhere, List.mem_flatMap, List.mem_filter]
  constructor
  · rintro ⟨w, ⟨x, hx, hw, hmine⟩, hitem⟩
    exact ⟨x, hx, w, hw, (hwaiter w).mp ⟨hmine, hitem⟩⟩
  · rintro ⟨x, hx, w, hw, hwi⟩
    obtain ⟨hmine, hitem⟩ := (hwaiter w).mpr hwi
    exact ⟨w, ⟨x, hx, hw, hmine⟩, hitem⟩

theorem takeWithdrawal_eq {s : State} {n : Nat} {p : Port} {rest : List (Nat × Port)}
    (h : s.clu.withdrawals = (n, p) :: rest) :
    takeWithdrawal s =
      sendBte (.withdrawalAnswer n p ((waitersWhere (isItemWaiter n p) s).filterMap waiterItem))
        (removeWaiters (isItemWaiter n p) { s with clu := { s.clu with withdrawals := rest } }) := by
  unfold takeWithdrawal
  rw [h]

/-- Settles O54: the cancellation by its context, and the withdrawal request taken. -/
theorem batchesAreWithdrawn : Obligations.BatchesAreWithdrawn := by
  refine ⟨fun s rest p target tag mark hpow hidle hin => ?_, fun s n p rest hpow hidle hwf hup => ?_⟩
  · intro s0
    rw [exec_batchCancellation hpow hidle hin]
    refine ⟨fun hnone => congrArg _ (takeCancellation_none tag mark hnone), fun n hsome => ?_⟩
    intro c outs told held
    have htold : contextGet told n = c := by
      rw [contextGet, (answer_frame p tag mark (.done .none) s0).2.2.2.2.2.1]
      rfl
    have hbte : told.bte = s0.bte := by simp [told]
    have hclu : told.clu = s.clu := by simp [told, s0]
    refine ⟨fun hcancelled => congrArg _ (takeCancellation_again tag mark hsome hcancelled),
      fun hcancelled hparked => ?_, fun hcancelled hparked => ?_⟩
    · refine ⟨cancelContext n told, congrArg _ (takeCancellation_first tag mark hsome hcancelled), ?_⟩
      have hcancel : cancelContext n told =
          finishContext n (contextPut n (cancelledContext c)
            { told with bte := { told.bte with held := if told.bte.held = some n then none else told.bte.held } }) := by
        rw [cancelContext_done (by rw [htold]; exact hparked), htold]
      rw [hcancel]
      obtain ⟨hfree, hothers, hports, -, hclu', -, -, -, -, -, -, -, -, hheld⟩ :=
        finishContext_parts n (contextPut n (cancelledContext c)
          { told with bte := { told.bte with held := if told.bte.held = some n then none else told.bte.held } })
      rw [contextGet_contextPut_same] at hports
      refine ⟨hfree, ?_, hclu'.trans hclu, ?_, fun m hm => ?_⟩
      · rw [hheld, contextPut_held, hbte]
      · have hsame : (contextPut n (cancelledContext c) { told with
            bte := { told.bte with held := if told.bte.held = some n then none else told.bte.held } }).ports =
            told.ports := rfl
        exact hports.trans (answer_ports_congr hsame rfl c.port c.tag c.mark _)
      · rw [hothers m hm, contextGet_contextPut, if_neg (Ne.symm hm), contextGet, hbte]
        rfl
    · refine congrArg _ ((takeCancellation_first (s := s0) tag mark hsome hcancelled).trans ?_)
      have hcancel := cancelContext_parked (s := told) (n := n) (by rw [htold]; exact hparked)
      rw [htold, hclu, hbte] at hcancel
      rw [hcancel, hbte]
      rfl
  · refine ⟨_, _, ?_, claimGet_removeWaiters (isItemWaiter n p) hwf, mem_withdrawn s n p⟩
    refine congrArg _ ((if_pos hpow).trans ((doWhen_of _ _ ?_).trans (takeWithdrawal_eq hup)))
    rw [cluBusy_of_idle hidle]
    rfl

end Sys2Proof.Machine
end

section
/-! The claim unit's part of a teardown, and the sweeper's bucket operation (R64 to R66, R94 to R100). -/

namespace Sys2Proof.Machine

/-! ## Release-of-claim, record by record (R50, R52) -/

/-- A claim record after release-of-claim (R50, R52); `claimGet_releaseClaim` ties it to the model. -/
def releasedRecord (s : State) (r : ClaimRec) : ClaimRec :=
  match r.waiters with
  | [] => { r with phase := .closing, claimant := none, deadline := 0, details := none }
  | w :: rest => handoverRecord s r w rest

theorem releasedRecord_closed {s : State} {r : ClaimRec} (h : r.waiters = []) :
    releasedRecord s r = { r with phase := .closing, claimant := none, deadline := 0, details := none } := by
  unfold releasedRecord
  rw [h]

theorem releasedRecord_handedOver {s : State} {r : ClaimRec} {w : Waiter} {rest : List Waiter}
    (h : r.waiters = w :: rest) : releasedRecord s r = handoverRecord s r w rest := by
  unfold releasedRecord
  rw [h]

/-- A release reads of the part only the time and the claim window (R47, R50). -/
theorem releasedRecord_congr {s t : State} (htmb : t.tmb = s.tmb) (hparams : t.params = s.params) (r : ClaimRec) :
    releasedRecord t r = releasedRecord s r := by
  have hdeadline : newDeadline t = newDeadline s := by
    unfold newDeadline
    rw [htmb, hparams]
  unfold releasedRecord handoverRecord
  rw [hdeadline]

theorem handOver_clu (n : Nat) (w : Waiter) (rest : List Waiter) (s : State) :
    (handOver n w rest s).clu = (claimPut n (handoverRecord s (claimGet s n) w rest) s).clu := by
  simp [handOver]

theorem claimGet_releaseClaim (n m : Nat) (s : State) :
    claimGet (releaseClaim n s) m = if n = m then releasedRecord s (claimGet s n) else claimGet s m := by
  rcases hwaiters : (claimGet s n).waiters with _ | ⟨w, rest⟩
  · rw [releaseClaim_closes hwaiters, releasedRecord_closed hwaiters]
    exact claimGet_claimPut n m
      { claimGet s n with phase := .closing, claimant := none, deadline := 0, details := none } s
  · rw [releaseClaim_handsOver hwaiters, releasedRecord_handedOver hwaiters, claimGet, handOver_clu]
    exact claimGet_claimPut n m _ s

/-- A release queues a freeing update where no waiter stands on the list (R50, R52). -/
theorem releaseClaim_updates (n : Nat) (s : State) :
    (releaseClaim n s).clu.updates = s.clu.updates ++ (if (claimGet s n).waiters = [] then [.freeing n] else []) := by
  rcases hwaiters : (claimGet s n).waiters with _ | ⟨w, rest⟩
  · rw [releaseClaim_closes hwaiters]
    rfl
  · rw [releaseClaim_handsOver hwaiters, handOver_clu, if_neg (by simp), List.append_nil]
    rfl

/-! ## What the work on claims leaves of the rest of the part -/

/-- The part but for port units, claims, updates, counters and messages to the batch engine. -/
structure ClaimsOnly (t s : State) : Prop where
  withdrawals : t.clu.withdrawals = s.clu.withdrawals
  contexts : t.bte.contexts = s.bte.contexts
  mem : t.mem = s.mem
  ixc : t.ixc = s.ixc
  ctu : t.ctu = s.ctu
  swp : t.swp = s.swp
  tmb : t.tmb = s.tmb
  nst : t.nst = s.nst
  mif : t.mif = s.mif
  params : t.params = s.params

theorem ClaimsOnly.trans {a b c : State} (h : ClaimsOnly a b) (k : ClaimsOnly b c) : ClaimsOnly a c where
  withdrawals := h.withdrawals.trans k.withdrawals
  contexts := h.contexts.trans k.contexts
  mem := h.mem.trans k.mem
  ixc := h.ixc.trans k.ixc
  ctu := h.ctu.trans k.ctu
  swp := h.swp.trans k.swp
  tmb := h.tmb.trans k.tmb
  nst := h.nst.trans k.nst
  mif := h.mif.trans k.mif
  params := h.params.trans k.params

theorem ClaimsOnly.refl (s : State) : ClaimsOnly s s :=
  ⟨rfl, rfl, rfl, rfl, rfl, rfl, rfl, rfl, rfl, rfl⟩

theorem answerWaiter_contexts (w : Waiter) (o : IndexOutcome) (s : State) :
    (answerWaiter w o s).bte.contexts = s.bte.contexts := by
  unfold answerWaiter
  split
  · simp
  · rfl

theorem releaseClaim_claimsOnly (n : Nat) (s : State) : ClaimsOnly (releaseClaim n s) s := by
  obtain ⟨-, -, hixc, hctu, hswp, htmb, hnst, hmif, hparams, hmem, -⟩ := releaseClaim_frame n s
  rcases hwaiters : (claimGet s n).waiters with _ | ⟨w, rest⟩
  · have hclose := releaseClaim_closes hwaiters
    exact ⟨by rw [hclose]; rfl, by rw [hclose]; rfl, hmem, hixc, hctu, hswp, htmb, hnst, hmif, hparams⟩
  · have hhand := releaseClaim_handsOver hwaiters
    refine ⟨by rw [hhand, handOver_clu]; rfl, ?_, hmem, hixc, hctu, hswp, htmb, hnst, hmif, hparams⟩
    rw [hhand, handOver, answerWaiter_contexts]
    simp

/-! ## Claims given up (R66) -/

theorem claimOf_iff (p : Port) (r : ClaimRec) :
    claimOf p r = true ↔ (r.phase = .held ∨ r.phase = .settling) ∧ ∃ w, r.claimant = some w ∧ w.port = p := by
  simp [claimOf]

/-- The updates but for the claim's entry update (R66). -/
def withoutEntry (n : Nat) (s : State) : State :=
  { s with clu := { s.clu with updates := s.clu.updates.filter (fun u => decide (u ≠ .entry n)) } }

section
variable {p : Port} {n : Nat} {s : State}

theorem giveUpClaim_of (h : claimOf p (claimGet s n) = true) :
    giveUpClaim p n s = releaseClaim n (withoutEntry n s) := if_pos h

theorem giveUpClaim_of_not (h : ¬ claimOf p (claimGet s n) = true) : giveUpClaim p n s = s := if_neg h

end

section
variable (p : Port) (n m : Nat) (s : State)

theorem giveUpClaim_claimsOnly : ClaimsOnly (giveUpClaim p n s) s := by
  by_cases h : claimOf p (claimGet s n) = true
  · rw [giveUpClaim_of h]
    exact (releaseClaim_claimsOnly n _).trans ⟨rfl, rfl, rfl, rfl, rfl, rfl, rfl, rfl, rfl, rfl⟩
  · rw [giveUpClaim_of_not h]
    exact .refl s

theorem claimGet_giveUpClaim :
    claimGet (giveUpClaim p n s) m =
      if n = m ∧ claimOf p (claimGet s n) = true then releasedRecord s (claimGet s n) else claimGet s m := by
  by_cases h : claimOf p (claimGet s n) = true
  · rw [giveUpClaim_of h, claimGet_releaseClaim]
    by_cases hm : n = m
    · rw [if_pos hm, if_pos ⟨hm, h⟩]
      exact releasedRecord_congr rfl rfl _
    · rw [if_neg hm, if_neg fun hand => hm hand.1]
      rfl
  · rw [giveUpClaim_of_not h, if_neg fun hand => h hand.2]

/-- No claim given up puts an entry update in the queue (R66). -/
theorem giveUpClaim_noEntry (h : .entry m ∉ s.clu.updates) : .entry m ∉ (giveUpClaim p n s).clu.updates := by
  by_cases hmine : claimOf p (claimGet s n) = true
  · rw [giveUpClaim_of hmine, releaseClaim_updates, List.mem_append, not_or]
    refine ⟨fun hin => h (List.mem_filter.mp hin).1, ?_⟩
    split <;> simp
  · rw [giveUpClaim_of_not hmine]
    exact h

/-- No claim given up takes a freeing update from the queue (R66). -/
theorem giveUpClaim_freeing (h : .freeing m ∈ s.clu.updates) : .freeing m ∈ (giveUpClaim p n s).clu.updates := by
  by_cases hmine : claimOf p (claimGet s n) = true
  · rw [giveUpClaim_of hmine, releaseClaim_updates, List.mem_append]
    exact .inl (List.mem_filter.mpr ⟨h, by simp⟩)
  · rw [giveUpClaim_of_not hmine]
    exact h

/-- A claim given up loses its entry update, and is queued for freeing where no waiter stands on its list (R66). -/
theorem giveUpClaim_own (h : claimOf p (claimGet s n) = true) :
    .entry n ∉ (giveUpClaim p n s).clu.updates ∧
      ((claimGet s n).waiters = [] → .freeing n ∈ (giveUpClaim p n s).clu.updates) := by
  rw [giveUpClaim_of h, releaseClaim_updates]
  have hsame : claimGet (withoutEntry n s) n = claimGet s n := rfl
  rw [hsame]
  refine ⟨?_, fun hnone => ?_⟩
  · rw [List.mem_append, not_or]
    refine ⟨fun hin => ?_, by split <;> simp⟩
    simpa using (List.mem_filter.mp hin).2
  · rw [if_pos hnone]
    exact List.mem_append_right _ List.mem_cons_self

end

/-- Claims given up one after the other. -/
def giveUpClaims (p : Port) (l : List Nat) (s : State) : State := l.foldl (fun s n => giveUpClaim p n s) s

theorem giveUpClaims_cons (p : Port) (n : Nat) (l : List Nat) (s : State) :
    giveUpClaims p (n :: l) s = giveUpClaims p l (giveUpClaim p n s) := rfl

section
variable (p : Port) (l : List Nat) (s : State)

theorem giveUpClaims_claimsOnly : ClaimsOnly (giveUpClaims p l s) s := by
  induction l generalizing s with
  | nil => exact .refl s
  | cons n rest ih => exact (ih (giveUpClaim p n s)).trans (giveUpClaim_claimsOnly p n s)

theorem giveUpClaims_noEntry {m : Nat} (h : .entry m ∉ s.clu.updates) : .entry m ∉ (giveUpClaims p l s).clu.updates := by
  induction l generalizing s with
  | nil => exact h
  | cons n rest ih => exact ih _ (giveUpClaim_noEntry p n m s h)

theorem giveUpClaims_freeing {m : Nat} (h : .freeing m ∈ s.clu.updates) :
    .freeing m ∈ (giveUpClaims p l s).clu.updates := by
  induction l generalizing s with
  | nil => exact h
  | cons n rest ih => exact ih _ (giveUpClaim_freeing p n m s h)

variable {l}

/-- Each claim listed once is given up once, and the others stay. -/
theorem claimGet_giveUpClaims (hl : l.Nodup) (n : Nat) :
    claimGet (giveUpClaims p l s) n =
      if n ∈ l ∧ claimOf p (claimGet s n) = true then releasedRecord s (claimGet s n) else claimGet s n := by
  induction l generalizing s with
  | nil => simp [giveUpClaims]
  | cons m rest ih =>
    obtain ⟨hm, hrest⟩ := List.nodup_cons.mp hl
    have hone := claimGet_giveUpClaim p m n s
    have hquiet := giveUpClaim_claimsOnly p m s
    rw [giveUpClaims_cons, ih _ hrest]
    by_cases hmn : m = n
    · subst hmn
      rw [if_neg fun hand => hm hand.1, hone]
      simp
    · have hsame : claimGet (giveUpClaim p m s) n = claimGet s n := by rw [hone, if_neg fun hand => hmn hand.1]
      rw [hsame, releasedRecord_congr hquiet.tmb hquiet.params]
      simp [Ne.symm hmn]

/-- What the updates hold of a claim given up. -/
theorem giveUpClaims_own (hl : l.Nodup) {n : Nat} (hn : n ∈ l) (hmine : claimOf p (claimGet s n) = true) :
    .entry n ∉ (giveUpClaims p l s).clu.updates ∧
      ((claimGet s n).waiters = [] → .freeing n ∈ (giveUpClaims p l s).clu.updates) := by
  induction l generalizing s with
  | nil => simp at hn
  | cons m rest ih =>
    obtain ⟨hm, hrest⟩ := List.nodup_cons.mp hl
    rw [giveUpClaims_cons]
    by_cases hmn : m = n
    · subst hmn
      obtain ⟨hentry, hfreeing⟩ := giveUpClaim_own p m s hmine
      exact ⟨giveUpClaims_noEntry p rest _ hentry, fun hnone => giveUpClaims_freeing p rest _ (hfreeing hnone)⟩
    · have hsame : claimGet (giveUpClaim p m s) n = claimGet s n := by
        rw [claimGet_giveUpClaim, if_neg fun hand => hmn hand.1]
      have hin : n ∈ rest := (List.mem_cons.mp hn).resolve_left (Ne.symm hmn)
      have hih := ih (giveUpClaim p m s) hrest hin (by rw [hsame]; exact hmine)
      rw [hsame] at hih
      exact hih

end

/-! ## The claim unit's part of a teardown (R64 to R66, R125, R152) -/

theorem claimNumbers_nodup {s : State} (h : tableWf ClaimRec.zero s.clu.claims = true) : (claimNumbers s).Nodup := by
  obtain ⟨hrising, -⟩ := (tableWf_iff _ _).mp h
  exact List.pairwise_map.mpr (hrising.imp Nat.ne_of_lt)

/-- A claim of a port is listed, since an unlisted record reads as FREE. -/
theorem mem_claimNumbers {s : State} {p : Port} {n : Nat} (h : claimOf p (claimGet s n) = true) :
    n ∈ claimNumbers s := by
  have hlisted : (n, claimGet s n) ∈ s.clu.claims := by
    refine mem_of_tableGet_ne fun hzero => ?_
    rw [claimGet, hzero] at h
    exact absurd h (by cases p <;> decide)
  exact List.mem_map_of_mem (f := fun e => e.1) hlisted

theorem cluMayTear_iff (s : State) (p : Port) :
    cluMayTear s p = true ↔ (portUnit s p).teardownClu = true ∧ (portUnit s p).teardownBte = false ∧
      (∀ e, s.ixc.inProgress ≠ some (.port p e)) ∧
      ∀ m, s.ixc.inProgress ≠ some (.entryUpdate m) ∧ s.ixc.inProgress ≠ some (.freeing m) := by
  have hport : portBusy s p = false ↔ ∀ e, s.ixc.inProgress ≠ some (.port p e) := by
    rw [← Bool.not_eq_true, portBusy_iff, not_exists]
  have hclu : cluBusy s = false ↔
      ∀ m, s.ixc.inProgress ≠ some (.entryUpdate m) ∧ s.ixc.inProgress ≠ some (.freeing m) := by
    rw [← Bool.not_eq_true, cluBusy_iff, not_exists]
    simp only [not_or]
  simp only [cluMayTear, Bool.and_eq_true, Bool.not_eq_true', hport, hclu, and_assoc]

/-- Settles O55: waiters leave first, then each claim of the port is given up once. -/
theorem claimTeardownGivesUpClaims : Obligations.ClaimTeardownGivesUpClaims := by
  intro s p hpow hwf may
  refine ⟨fun hmay => ?_, fun hnot => ?_⟩
  · have hrun : exec (.cluTeardown p) s = .next (takeCluTeardown p s) :=
      congrArg _ ((if_pos hpow).trans (doWhen_of _ _ ((cluMayTear_iff s p).mpr hmay)))
    have hnodup := claimNumbers_nodup hwf
    have hremoved := claimGet_removeWaiters (fun w => decide (w.port = p)) hwf
    have hwork : cluTeardownWork p s =
        giveUpClaims p (claimNumbers s) (removeWaiters (fun w => decide (w.port = p)) s) := rfl
    have hmine : ∀ n, claimOf p (claimGet (removeWaiters (fun w => decide (w.port = p)) s) n) = true ↔
        ((claimGet s n).phase = .held ∨ (claimGet s n).phase = .settling) ∧
          ∃ w, (claimGet s n).claimant = some w ∧ w.port = p := fun n => by
      rw [claimOf_iff, hremoved]
    have hlisted : ∀ n, claimOf p (claimGet (removeWaiters (fun w => decide (w.port = p)) s) n) = true →
        n ∈ claimNumbers s := fun n h =>
      mem_claimNumbers (p := p) ((claimOf_iff _ _).mpr ((hmine n).mp h))
    have hframe := giveUpClaims_claimsOnly p (claimNumbers s) (removeWaiters (fun w => decide (w.port = p)) s)
    refine ⟨sendBte (.teardownCompletion p) (cluTeardownWork p s), hrun, fun n => ?_, ?_⟩
    · have hclaim := claimGet_giveUpClaims p (removeWaiters (fun w => decide (w.port = p)) s) hnodup n
      intro r ws mine
      refine ⟨fun hnot => ?_, fun hm hnone => ?_, fun w rest hm hsome => ?_⟩
      · rw [if_neg fun hand => hnot ((hmine n).mp hand.2), hremoved] at hclaim
        exact hclaim
      · have hof := (hmine n).mpr hm
        obtain ⟨hentry, hfreeing⟩ :=
          giveUpClaims_own p (removeWaiters (fun w => decide (w.port = p)) s) hnodup (hlisted n hof) hof
        rw [if_pos ⟨hlisted n hof, hof⟩, hremoved, releasedRecord_closed hnone] at hclaim
        rw [hremoved] at hfreeing
        refine ⟨hclaim.trans ?_, hfreeing hnone, hentry⟩
        rw [show (claimGet s n).waiters.filter (fun w => !decide (w.port = p)) = [] from hnone]
      · have hof := (hmine n).mpr hm
        obtain ⟨hentry, -⟩ :=
          giveUpClaims_own p (removeWaiters (fun w => decide (w.port = p)) s) hnodup (hlisted n hof) hof
        rw [if_pos ⟨hlisted n hof, hof⟩, hremoved, releasedRecord_handedOver hsome] at hclaim
        exact ⟨hclaim, hentry⟩
    · refine ⟨List.getLast?_concat, hframe.mem, hframe.ixc, hframe.ctu, hframe.contexts, hframe.swp, hframe.tmb,
        hframe.nst, hframe.mif, hframe.params, hframe.withdrawals⟩
  · exact congrArg _ ((if_pos hpow).trans (doWhen_of_not _ _ fun h => hnot ((cluMayTear_iff s p).mp h)))

/-! ## The sweeper (R94 to R100) -/

/-- A ZERO slot past grace (R94, R98). -/
def sweepDue (grace : Nat) (now : BitVec 40) (t : State) (n : Nat) : Bool :=
  decide (imageState (slotGet t n) = some .zero) && decide ((slotGet t n).zeroSince.toNat + grace ≤ now.toNat)

theorem sweepDue_iff (grace : Nat) (now : BitVec 40) (t : State) (n : Nat) :
    sweepDue grace now t n = true ↔
      slotState t n = some .zero ∧ pastGrace grace now (slotGet t n) = true := by
  rw [sweepDue, Bool.and_eq_true, decide_eq_true_iff]
  rfl

theorem purgeIfDue_eq (grace : Nat) (now : BitVec 40) (n : Nat) (t : State) :
    purgeIfDue grace now n t = if sweepDue grace now t n = true then purgeSlot n t else t := by
  unfold purgeIfDue
  simp only [sweepDue_iff]

/-- One slot of the bucket by the mode (R98). -/
theorem sweepSlot_eq (mode : SweepMode) (grace : Nat) (now : BitVec 40) (t : State) (n : Nat) :
    sweepSlot mode grace now t n =
      match mode with
      | .off => t
      | .scrub => if sweepDue grace now (verifySlot n t) n = true then purgeSlot n (verifySlot n t) else verifySlot n t
      | .purge =>
        if sweepDue grace now t n = true then
          (if sweepDue grace now (verifySlot n t) n = true then purgeSlot n (verifySlot n t) else verifySlot n t)
        else t := by
  cases mode with
  | off => rfl
  | scrub => exact purgeIfDue_eq grace now n _
  | purge =>
    simp only [sweepSlot, purgeIfDue_eq, sweepDue_iff]

theorem purgeSlot_frame (n : Nat) (t : State) :
    (purgeSlot n t).swp = t.swp ∧ (purgeSlot n t).mif = t.mif := by
  simp [purgeSlot, departLocation, departEntry]

/-- Dealing with a slot leaves the sweeper and the memory interface (R98). -/
theorem sweepSlot_frame (mode : SweepMode) (grace : Nat) (now : BitVec 40) (t : State) (n : Nat) :
    (sweepSlot mode grace now t n).swp = t.swp ∧ (sweepSlot mode grace now t n).mif = t.mif := by
  have hdue : ∀ u : State, u.swp = t.swp → u.mif = t.mif →
      (purgeIfDue grace now n u).swp = t.swp ∧ (purgeIfDue grace now n u).mif = t.mif := by
    intro u hswp hmif
    unfold purgeIfDue
    split
    · obtain ⟨hswp', hmif'⟩ := purgeSlot_frame n u
      exact ⟨hswp'.trans hswp, hmif'.trans hmif⟩
    · exact ⟨hswp, hmif⟩
  cases mode with
  | off => exact ⟨rfl, rfl⟩
  | scrub => exact hdue _ (by simp) (by simp)
  | purge =>
    unfold sweepSlot
    dsimp only
    split
    · exact hdue _ (by simp) (by simp)
    · exact ⟨rfl, rfl⟩

theorem sweepSlots_frame (mode : SweepMode) (grace : Nat) (now : BitVec 40) (l : List Nat) (t : State) :
    (l.foldl (sweepSlot mode grace now) t).swp = t.swp ∧ (l.foldl (sweepSlot mode grace now) t).mif = t.mif := by
  induction l generalizing t with
  | nil => exact ⟨rfl, rfl⟩
  | cons n rest ih =>
    obtain ⟨hswp, hmif⟩ := sweepSlot_frame mode grace now t n
    obtain ⟨hswp', hmif'⟩ := ih (sweepSlot mode grace now t n)
    exact ⟨hswp'.trans hswp, hmif'.trans hmif⟩

theorem bucketCount_congr {s t : State} (h : t.mif = s.mif) : bucketCount t = bucketCount s := by
  unfold bucketCount capacity
  rw [h]

theorem endBucket_within {t : State} (h : t.swp.cursor + 1 < bucketCount t) :
    endBucket t =
      { t with swp := { t.swp with allowance := t.swp.allowance - 1, cursor := t.swp.cursor + 1 } } :=
  if_neg (Nat.not_le.mpr h)

theorem endBucket_last {t : State} (h : bucketCount t ≤ t.swp.cursor + 1) :
    endBucket t =
      raiseAll .sweepDone { t with swp :=
        { cursor := 0, passCount := t.swp.passCount + 1#32, allowance := t.swp.allowance - 1 } } :=
  if_pos h

/-- Settles O56: the eight slots by `sweepSlot_eq`, then the end of the bucket. -/
theorem sweeperDealsWithBucket : Obligations.SweeperDealsWithBucket := by
  intro s hpow hnext now due purged swept t
  have hswept : swept = sweepSlot s.params.sweepMode s.params.graceS s.tmb.clock := by
    funext t n
    rw [sweepSlot_eq]
    rfl
  have hgrant : grantSweeper s = some (grantTurn .swp (.sweep s.params.sweepMode s.params.graceS s.tmb.clock) s,
      .sweep s.params.sweepMode s.params.graceS s.tmb.clock) := if_pos hnext
  have ht : sweepBucket s.params.sweepMode s.params.graceS s.tmb.clock
      (grantTurn .swp (.sweep s.params.sweepMode s.params.graceS s.tmb.clock) s) = t := by
    simp only [t, hswept]
    rfl
  have hrun : exec (.sweeperBucketOperation .whole) s = .next (endTurn (endBucket t)) := by
    rw [← ht]
    exact congrArg _ (turn_whole (finish := finishSweep) (mine := isSweepTurn) hpow hgrant)
  have hframe : t.swp = s.swp ∧ t.mif = s.mif := by
    rw [← ht]
    exact sweepSlots_frame _ _ _ _ (grantTurn .swp (.sweep s.params.sweepMode s.params.graceS s.tmb.clock) s)
  obtain ⟨hswp, hmif⟩ := hframe
  have hcount := bucketCount_congr hmif
  rw [hrun]
  refine ⟨fun hwithin => ?_, fun hlast => ?_⟩
  · rw [endBucket_within (by rw [hswp, hcount]; exact hwithin), hswp]
  · rw [endBucket_last (by rw [hswp, hcount]; exact hlast), hswp]

end Sys2Proof.Machine
end

section
/-! The arrival of frames: admission, the checks in their order, frames that are no requests, and the bytes of a frame
(R129 to R137, R180, R181). -/

namespace Sys2Proof.Machine

/-! ## A frame received (R131) -/

/-- Receiving a frame counts it and keeps the link steady: the port unit changes by its symbols and notices alone. -/
theorem frameIn_notices (p : Port) (s : State) : NoticesOnly (frameIn p s) (seeSymbols p s) := countPort_notices _ _ _ _

theorem portUnit_seeSymbols (p : Port) (s : State) :
    portUnit (seeSymbols p s) p = { portUnit s p with symbolSeen := true } := portUnit_updPort_same _ _ _

theorem frameIn_queue (p : Port) (s : State) : (portUnit (frameIn p s) p).queue = (portUnit s p).queue := by
  rw [(frameIn_notices p s p).queue, portUnit_seeSymbols]

theorem frameIn_session (p : Port) (s : State) : (portUnit (frameIn p s) p).session = (portUnit s p).session := by
  rw [(frameIn_notices p s p).session, portUnit_seeSymbols]

theorem frameIn_state (p : Port) (s : State) : (portUnit (frameIn p s) p).state = (portUnit s p).state := by
  rw [(frameIn_notices p s p).state, portUnit_seeSymbols]

theorem takesFrames_iff (s : State) (p : Port) :
    takesFrames s p = true ↔ s.mif.restartTaken = false ∧ (portUnit s p).responses.length < 32 := by
  rw [takesFrames, Bool.and_eq_true, Bool.not_eq_true', decide_eq_true_iff]
  rfl

/-- A receiving port tests the frame (R131, R132). -/
theorem arrive_of_receiving {s : State} {p : Port} (h : Receiving s p) (code : Byte) (k : Option Kind)
    (f : RequestFrame) : arrive p code k f s = tryAdmit p code k f (frameIn p s) := by
  obtain ⟨-, hdown, hroom, hrestart⟩ := h
  have htakes : takesFrames s p = true := (takesFrames_iff s p).mpr ⟨hrestart, hroom⟩
  unfold arrive
  rw [if_neg hdown, htakes, if_neg (by decide)]
  rfl

theorem queued_none {s : State} {p : Port} {tag : Tag} (h : ∀ e ∈ (portUnit s p).queue, e.tag ≠ tag) :
    queued s p tag = none :=
  List.find?_eq_none.mpr fun e he => by simpa using h e he

theorem queued_isSome {s : State} {p : Port} {tag : Tag} (h : ∃ e ∈ (portUnit s p).queue, e.tag = tag) :
    (queued s p tag).isSome = true := by
  obtain ⟨e, he, htag⟩ := h
  rw [Option.isSome_iff_ne_none]
  intro hnone
  have hfails := List.find?_eq_none.mp hnone e he
  simp [htag] at hfails

section
variable {s : State} {p : Port} {code : Byte} {k : Option Kind} {f : RequestFrame}

theorem tryAdmit_queueFull (h : 32 ≤ (portUnit s p).queue.length) :
    tryAdmit p code k f s =
      (respond p { kind := code, tag := f.tag, answer := .queueFull } (countPort p .queueFulls 1 s), false) := by
  unfold tryAdmit
  exact if_pos h

theorem tryAdmit_tagInUse (h : (portUnit s p).queue.length < 32) (htag : (queued s p f.tag).isSome = true) :
    tryAdmit p code k f s = (respond p { kind := code, tag := f.tag, answer := .tagInUse } s, false) := by
  unfold tryAdmit
  exact (if_neg (Nat.not_le.mpr h)).trans (if_pos htag)

theorem tryAdmit_refused {a : Answer} (h : (portUnit s p).queue.length < 32) (htag : queued s p f.tag = none)
    (ha : arrivalCheck s p k f = .error a) :
    tryAdmit p code k f s = (respond p { kind := code, tag := f.tag, answer := a } s, false) := by
  unfold tryAdmit
  refine (if_neg (Nat.not_le.mpr h)).trans ((if_neg (by rw [htag]; decide)).trans ?_)
  rw [ha]

theorem tryAdmit_admitted {r : Kind × Request} (h : (portUnit s p).queue.length < 32) (htag : queued s p f.tag = none)
    (hr : arrivalCheck s p k f = .ok r) :
    tryAdmit p code k f s =
      (updPort p (fun u => { u with queue := u.queue ++ [newEntry s p r.1 f r.2] }) s, true) := by
  unfold tryAdmit
  refine (if_neg (Nat.not_le.mpr h)).trans ((if_neg (by rw [htag]; decide)).trans ?_)
  rw [hr]

end

/-- The four results of a frame at a receiving port, in the order of checks 2 to 8 (R132). -/
theorem arrive_results {s : State} {p : Port} (h : Receiving s p) (code : Byte) (k : Option Kind) (f : RequestFrame) :
    (32 ≤ (portUnit s p).queue.length →
      arrive p code k f s = (respond p { kind := code, tag := f.tag, answer := .queueFull }
        (countPort p .queueFulls 1 (frameIn p s)), false)) ∧
    ((portUnit s p).queue.length < 32 → (∃ e ∈ (portUnit s p).queue, e.tag = f.tag) →
      arrive p code k f s = (respond p { kind := code, tag := f.tag, answer := .tagInUse } (frameIn p s), false)) ∧
    (HasRoom s p f.tag → ∀ a, arrivalCheck (frameIn p s) p k f = .error a →
      arrive p code k f s = (respond p { kind := code, tag := f.tag, answer := a } (frameIn p s), false)) ∧
    (HasRoom s p f.tag → ∀ r, arrivalCheck (frameIn p s) p k f = .ok r →
      arrive p code k f s =
        (updPort p (fun u => { u with queue := u.queue ++ [newEntry s p r.1 f r.2] }) (frameIn p s), true)) := by
  have hqueue := frameIn_queue p s
  have hnone : HasRoom s p f.tag → (portUnit (frameIn p s) p).queue.length < 32 ∧ queued (frameIn p s) p f.tag = none := by
    rintro ⟨hlength, htags⟩
    rw [← hqueue] at hlength htags
    exact ⟨hlength, queued_none htags⟩
  rw [arrive_of_receiving h]
  refine ⟨fun hfull => tryAdmit_queueFull (by rw [hqueue]; exact hfull), fun hlength htag => ?_,
    fun hroom a ha => ?_, fun hroom r hr => ?_⟩
  · rw [← hqueue] at hlength htag
    exact tryAdmit_tagInUse hlength (queued_isSome htag)
  · obtain ⟨hlength, htag⟩ := hnone hroom
    exact tryAdmit_refused hlength htag ha
  · obtain ⟨hlength, htag⟩ := hnone hroom
    rw [tryAdmit_admitted hlength htag hr]
    unfold newEntry
    rw [frameIn_session]

/-- The arrival of a frame of each kind (R132). -/
theorem exec_arrivalCommand (k : Kind) (p : Port) (f : RequestFrame) (s : State) :
    exec (arrivalCommand k p f) s = .next (whenPowered s fun s => (arrive p (kindCode k) (some k) f s).1) := by
  cases k <;> rfl

theorem exec_arrivalCommand_receiving {s : State} {p : Port} (h : Receiving s p) (k : Kind) (f : RequestFrame) :
    exec (arrivalCommand k p f) s = .next (arrive p (kindCode k) (some k) f s).1 := by
  rw [exec_arrivalCommand, whenPowered, if_pos h.1]

/-- Settles O5: the results of a frame at a receiving port, for a kind. -/
theorem arrivalAdmitsOrRefuses : Obligations.ArrivalAdmitsOrRefuses := by
  refine ⟨fun s p k f r hreceiving hroom hok => ?_, fun s p k f hreceiving => ?_⟩
  · obtain ⟨-, -, -, hadmitted⟩ := arrive_results hreceiving (kindCode k) (some k) f
    rw [exec_arrivalCommand_receiving hreceiving, hadmitted hroom _ hok]
    rfl
  · intro refused
    obtain ⟨hfull, htag, hrefused, -⟩ := arrive_results hreceiving (kindCode k) (some k) f
    rw [exec_arrivalCommand_receiving hreceiving]
    exact ⟨fun h => by rw [hfull h]; rfl, fun h h' => by rw [htag h h']; rfl,
      fun hroom a ha => by rw [hrefused hroom a ha]; rfl⟩

/-! ## Frames that are no requests (R132 to R134, R143, R147, R177, R180) -/

theorem arrivalCheck_unknown (s : State) (p : Port) (f : RequestFrame) :
    arrivalCheck s p none f = if (portUnit s p).state = .fenced then .error .fenced else .error .malformed := by
  unfold arrivalCheck
  simp

theorem exec_unknownKindCode {s : State} {p : Port} {code : Byte} (f : RequestFrame) (h : Receiving s p)
    (hcode : kindOfCode code = none) : exec (.unknownKindCode p code f) s = .next (arrive p code none f s).1 :=
  congrArg _ ((if_pos h.1).trans (doWhen_of _ _ (by rw [hcode]; rfl)))

section
variable {s : State} {p : Port}

theorem receiveFrame_down (r : Reception) (h : (portUnit s p).state = .down) : receiveFrame p r s = .next s :=
  if_pos (.inr h)

theorem receiveFrame_discarded (r : Reception) (hpow : s.powered = true) (hdown : (portUnit s p).state ≠ .down)
    (h : takesFrames s p = false) : receiveFrame p r s = .next (seeSymbols p s) :=
  (if_neg (by simp [hpow, hdown])).trans (if_pos h)

theorem receiveFrame_bad {r : Reception} (h : Receiving s p) (hbad : receptionIsBad r = true) :
    receiveFrame p r s = .next (discardBad p s) := by
  obtain ⟨hpow, hdown, hroom, hrestart⟩ := h
  have htakes : takesFrames s p = true := (takesFrames_iff s p).mpr ⟨hrestart, hroom⟩
  unfold receiveFrame
  rw [if_neg (by simp [hpow, hdown]), htakes, if_neg (by decide), if_pos hbad]

/-- A whole frame whose bytes spell a kind is that kind's request (R180, R181). -/
theorem receiveFrame_request {bytes : List Byte} {k : Kind} (h : Receiving s p)
    (hgood : receptionIsBad (.whole bytes) = false) (hk : kindOfCode (readFrame bytes).1 = some k) :
    receiveFrame p (.whole bytes) s = execRequest k p (readFrame bytes).2 s := by
  obtain ⟨hpow, hdown, hroom, hrestart⟩ := h
  have htakes : takesFrames s p = true := (takesFrames_iff s p).mpr ⟨hrestart, hroom⟩
  unfold receiveFrame
  rw [if_neg (by simp [hpow, hdown]), htakes, if_neg (by decide), hgood, if_neg (by decide)]
  simp only [hk]

end

/-- Settles O7: an unknown kind code by the checks before MALFORMED, discarded frames and bad frames. -/
theorem framesThatAreNoRequests : Obligations.FramesThatAreNoRequests := by
  refine ⟨fun s p code f hreceiving hcode => ?_, fun s p r hpow => ⟨fun hdown hlist => ?_, fun hdown =>
    ⟨receiveFrame_down r hdown, receiveFrame_down r hdown⟩⟩, fun s p r hreceiving hbad => ?_⟩
  · intro refused
    obtain ⟨hfull, htag, hrefused, -⟩ := arrive_results hreceiving code none f
    have hcheck := arrivalCheck_unknown (frameIn p s) p f
    rw [frameIn_state] at hcheck
    rw [exec_unknownKindCode f hreceiving hcode]
    refine ⟨fun h => by rw [hfull h]; rfl, fun h h' => by rw [htag h h']; rfl, fun hroom hfenced => ?_,
      fun hroom honline => ?_⟩
    · rw [hrefused hroom .fenced (by rw [hcheck, if_pos hfenced])]
      rfl
    · rw [hrefused hroom .malformed (by rw [hcheck, honline]; rfl)]
      rfl
  · refine receiveFrame_discarded r hpow hdown ?_
    rw [← Bool.not_eq_true, takesFrames_iff]
    rintro ⟨hrestart, hroom⟩
    exact hlist.elim (fun h => absurd hroom (Nat.not_lt.mpr h)) fun h => absurd (h.symm.trans hrestart) (by decide)
  · exact receiveFrame_bad hreceiving hbad

/-! ## What each kind needs, and checks 4 to 8 (R132 to R137) -/

section
variable {s : State} {p : Port} {k : Kind} {f : RequestFrame}

theorem arrivalCheck_fenced (h : (portUnit s p).state = .fenced) (h1 : k ≠ .identify) (h2 : k ≠ .portStatus) :
    arrivalCheck s p (some k) f = .error .fenced :=
  if_pos ⟨h, fun heq => h1 (Option.some.inj heq), fun heq => h2 (Option.some.inj heq)⟩

/-- The frame is past check 4 (R133). -/
def PastFenced (s : State) (p : Port) (k : Kind) : Prop :=
  (portUnit s p).state ≠ .fenced ∨ k = .identify ∨ k = .portStatus

theorem PastFenced.not_fenced (h : PastFenced s p k) :
    ¬ ((portUnit s p).state = .fenced ∧ some k ≠ some Kind.identify ∧ some k ≠ some Kind.portStatus) := by
  rintro ⟨hfenced, h1, h2⟩
  rcases h with h | rfl | rfl
  · exact h hfenced
  · exact h1 rfl
  · exact h2 rfl

theorem arrivalCheck_error {a : Answer} (h : PastFenced s p k) (ha : accessCheck s p k f = .error a) :
    arrivalCheck s p (some k) f = .error a := by
  unfold arrivalCheck
  rw [if_neg h.not_fenced]
  simp only [ha]

theorem arrivalCheck_ok {r : Request} (h : PastFenced s p k) (hr : accessCheck s p k f = .ok r) :
    arrivalCheck s p (some k) f = .ok (k, r) := by
  unfold arrivalCheck
  rw [if_neg h.not_fenced]
  simp only [hr]

theorem accessCheck_malformed (h : readRequest k f = none) : accessCheck s p k f = .error .malformed := by
  unfold accessCheck
  rw [h]

theorem bucketInRange_eq_false_iff (s : State) (r : Request) :
    bucketInRange s r = false ↔ s.mif.indexState = .ready ∧ ∃ q, requestPosition r = some q ∧ bucketCount s ≤ q.bucket := by
  unfold bucketInRange
  cases requestPosition r with
  | none => simp
  | some q => simp

/-- Check 8's result for a request (R137); `accessCheck_read` ties it to the model. -/
def namespaceResult (r : Request) : Option Answer → Except Answer Request
  | some a => .error a
  | none => .ok r

/-- Checks 5 to 8 on a frame that reads as a request (R134 to R137). -/
theorem accessCheck_read {r : Request} (h : readRequest k f = some r) :
    accessCheck s p k f =
      if bucketInRange s r = false then .error .malformed
      else if kindPrivilege k < (portUnit s p).privilege.toNat then .error .denied
      else if kindAllowed k s.mif.indexState = false then .error (.notReady s.mif.indexState)
      else if kindNsChecked k = true then namespaceResult r (namespaceRefusal s p k f.ns.toNat)
      else .ok r := by
  unfold accessCheck
  rw [h]
  rfl

end

/-- The three namespace tests in their order (R137). -/
theorem namespaceRefusal_eq (s : State) (p : Port) (k : Kind) (ns : Nat) :
    namespaceRefusal s p k ns =
      if ((portUnit s p).privilege ≠ 0#2 ∧ (portUnit s p).nsMap.getLsbD ns = false) ∨
          (tableGet NsRec.zero s.nst ns).state = .disabled then some .denied
      else if (tableGet NsRec.zero s.nst ns).state = .readOnly ∧ kindWrites k = true then some .readOnly
      else if (tableGet NsRec.zero s.nst ns).hold = true ∧ kindReleases k = true then some .held
      else none := rfl

theorem kindAllowed_iff (k : Kind) (st : IndexState) :
    kindAllowed k st = true ↔ st = .ready ∨ kindExempt k = true ∨ (k = .format ∧ st = .unformatted) := by
  simp [kindAllowed, or_assoc]

/-- Settles O6: the kinds' needs kind by kind, and the checks in their order. -/
theorem accessChecksInOrder : Obligations.AccessChecksInOrder := by
  refine ⟨fun k => ?_, fun s p k f => ?_⟩
  · have hexempt : kindExempt k = true ↔
        k ∈ ([.identify, .portStatus, .indexStatus, .events, .setEventMask, .getParameter, .admitPort, .restart] :
          List Kind) := by cases k <;> decide
    intro readers writers exempt
    refine ⟨?_, ?_, ?_, ?_, fun st => (kindAllowed_iff k st).trans (by rw [hexempt]), ?_, ?_, ?_⟩ <;>
      cases k <;> decide
  · intro u n
    refine ⟨arrivalCheck_fenced, fun hpast => ⟨fun hnone => arrivalCheck_error hpast (accessCheck_malformed hnone),
      fun r hread => ?_⟩⟩
    have haccess := accessCheck_read (s := s) (p := p) hread
    refine ⟨fun hready hposition => arrivalCheck_error hpast (haccess.trans (if_pos ?_)), fun hbucket => ?_⟩
    · exact (bucketInRange_eq_false_iff s r).mpr ⟨hready, hposition⟩
    rw [if_neg fun hfalse => by
      obtain ⟨hready, q, hq, hle⟩ := (bucketInRange_eq_false_iff s r).mp hfalse
      exact hbucket.elim (fun h => h hready) fun h => absurd (h q hq) (Nat.not_lt.mpr hle)] at haccess
    refine ⟨fun hlow => arrivalCheck_error hpast (haccess.trans (if_pos hlow)), fun hprivilege => ?_⟩
    rw [if_neg (Nat.not_lt.mpr hprivilege)] at haccess
    refine ⟨fun hstate => arrivalCheck_error hpast (haccess.trans (if_pos hstate)), fun hstate => ?_⟩
    rw [if_neg (by rw [hstate]; decide)] at haccess
    refine ⟨fun hunchecked => arrivalCheck_ok hpast (haccess.trans (if_neg (by rw [hunchecked]; decide))),
      fun hchecked => ?_⟩
    rw [if_pos hchecked, namespaceRefusal_eq] at haccess
    refine ⟨fun hdenied => ?_, fun hmap hdisabled => ⟨fun hreadOnly hwrites => ?_, fun hwrites => ⟨fun hhold hrel => ?_,
      fun hrel => ?_⟩⟩⟩
    · rw [if_pos hdenied] at haccess
      exact arrivalCheck_error hpast haccess
    all_goals
      rw [if_neg (not_or.mpr ⟨fun hno => hmap.elim hno.1 fun h => absurd (h.symm.trans hno.2) (by decide), hdisabled⟩)]
        at haccess
    · rw [if_pos ⟨hreadOnly, hwrites⟩] at haccess
      exact arrivalCheck_error hpast haccess
    all_goals
      rw [if_neg fun hno => hwrites.elim (· hno.1) fun h => absurd (hno.2.symm.trans h) (by decide)] at haccess
    · rw [if_pos ⟨hhold, hrel⟩] at haccess
      exact arrivalCheck_error hpast haccess
    · rw [if_neg fun hno => hrel.elim (fun h => absurd (hno.1.symm.trans h) (by decide))
        fun h => absurd (hno.2.symm.trans h) (by decide)] at haccess
      exact arrivalCheck_ok hpast haccess

/-! ## The bytes of a frame (R180, R181) -/

theorem withFrameCheck_length (bytes : List Byte) : (withFrameCheck bytes).length = bytes.length + 4 := by
  simp [withFrameCheck]

/-- Bytes with their frame check behind them hold it (R180). -/
theorem frameCheckHolds_withFrameCheck (bytes : List Byte) : frameCheckHolds (withFrameCheck bytes) = true := by
  have hlength : (withFrameCheck bytes).length - 4 = bytes.length := by
    rw [withFrameCheck_length]
    omega
  unfold frameCheckHolds
  rw [hlength]
  unfold withFrameCheck
  rw [List.drop_left, List.take_left, beNat_beBytes _ _ (crc32 bytes).isLt]
  exact decide_eq_true rfl

theorem beBytes_two (v : Nat) : beBytes 2 v = [BitVec.ofNat 8 (v / 256), BitVec.ofNat 8 v] := by
  simp [beBytes]

theorem beNat_tag (v : BitVec 16) : BitVec.ofNat 16 (beNat (beBytes 2 v.toNat)) = v := by
  rw [beNat_beBytes _ _ v.isLt, BitVec.ofNat_toNat, BitVec.setWidth_eq]

/-- A frame's bytes read as its kind code and its fields (R181). -/
theorem readFrame_requestBytes (code : Byte) (f : RequestFrame) : readFrame (requestBytes code f) = (code, f) := by
  obtain ⟨format, flags, ns, tag, bodyLength, body⟩ := f
  have htag := beNat_tag tag
  have hlen := beNat_tag bodyLength
  rw [beBytes_two] at htag hlen
  simp only [BitVec.ofNat_toNat] at htag hlen
  simp [readFrame, requestBytes, withFrameCheck, beBytes_two, htag, hlen]

theorem kindOfCode_kindCode (k : Kind) : kindOfCode (kindCode k) = some k := by
  cases k <;> decide

/-- Settles O8: the frame check holds, the fields read back, and the frame is the kind's request. -/
theorem sentBytesAreReceivedAsTheirRequest : Obligations.SentBytesAreReceivedAsTheirRequest := by
  intro s p k f hreceiving hwf
  have hlength : (requestBytes (kindCode k) f).length = f.body.length + 12 := by
    rw [requestBytes, withFrameCheck_length]
    simp
    omega
  have hgood : receptionIsBad (.whole (requestBytes (kindCode k) f)) = false := by
    have hfits : 8 + f.body.length + 4 < 8192 := of_decide_eq_true hwf
    have hmin : ¬ (requestBytes (kindCode k) f).length < Config.frameMin := by
      rw [hlength, Config.frameMin]
      omega
    have hlimit : ¬ Config.frameLimit ≤ (requestBytes (kindCode k) f).length := by
      rw [hlength, Config.frameLimit]
      omega
    have hcheck : frameCheckHolds (requestBytes (kindCode k) f) = true := frameCheckHolds_withFrameCheck _
    simp only [receptionIsBad, hmin, hlimit, hcheck, decide_false, Bool.not_true, Bool.or_self]
  have hread := readFrame_requestBytes (kindCode k) f
  refine ⟨hgood, hread, ?_⟩
  have hrequest := receiveFrame_request hreceiving hgood (by rw [hread]; exact kindOfCode_kindCode k)
  rw [hread] at hrequest
  exact hrequest

end Sys2Proof.Machine
end

section
/-! Commands cut into two events, requests taken outside READY, and outcomes sent once or dropped (R88, R132, R136,
R142, R143, R153). -/

namespace Sys2Proof.Machine

/-! ## The commands of a kind, with any step -/

/-- The commands of a kind that a block takes run one taking, whatever the step (R142). -/
theorem exec_blockCommand (k : Kind) (p : Port) : ∃ act : Port → QEntry → State → State,
    ∀ r c, blockCommand k p r = some c → ∀ s, exec c s = .next (whenPowered s (runRequest k act p r)) := by
  cases k
  case probe | lookup | ref | move | release | drop | restore | readSlot => exact ⟨fun _ _ s => s, fun _ _ h => nomatch h⟩
  all_goals exact ⟨_, fun r c h s => by cases h; rfl⟩

/-- The container unit's outcomes and the power stay as they are. -/
def KeepsOutcomes (t s : State) : Prop := t.ctu.outcomes = s.ctu.outcomes ∧ t.powered = s.powered

theorem KeepsOutcomes.rfl {s : State} : KeepsOutcomes s s := ⟨Eq.refl _, Eq.refl _⟩

theorem evalContainersLow_outcomes (s : State) : KeepsOutcomes (evalContainersLow s) s := by
  unfold evalContainersLow
  split
  · exact .rfl
  · exact ⟨Eq.refl _, Eq.refl _⟩

theorem openContainerWork_outcomes (p : Port) (e : QEntry) (s : State) :
    KeepsOutcomes (openContainerWork p e s).1 s := by
  unfold openContainerWork
  split
  · exact .rfl
  · split
    · exact .rfl
    · exact evalContainersLow_outcomes _

theorem closeContainerWork_outcomes (p : Port) (e : QEntry) (s : State) :
    KeepsOutcomes (closeContainerWork p e s).1 s := by
  unfold closeContainerWork
  split
  · dsimp only
    split
    · exact .rfl
    · split
      · exact .rfl
      · exact ⟨rfl, rfl⟩
  · exact .rfl

theorem reclaimWork_outcomes (p : Port) (e : QEntry) (s : State) : KeepsOutcomes (reclaimWork p e s).1 s := by
  unfold reclaimWork
  split
  · dsimp only
    split
    · exact .rfl
    · split
      · exact .rfl
      · exact evalContainersLow_outcomes _
  · exact .rfl

/-- The work of a container request leaves the outcomes fixed earlier, and changes port units by notices alone. -/
def ContainerWork (work : Port → QEntry → State → State × Answer) : Prop :=
  ∀ p e s, QuietWork (work p e s).1 s ∧ KeepsOutcomes (work p e s).1 s

theorem openContainerWork_container : ContainerWork openContainerWork :=
  fun p e s => ⟨openContainerWork_quiet p e s, openContainerWork_outcomes p e s⟩

theorem closeContainerWork_container : ContainerWork closeContainerWork :=
  fun p e s => ⟨closeContainerWork_quiet p e s, closeContainerWork_outcomes p e s⟩

theorem reclaimWork_container : ContainerWork reclaimWork :=
  fun p e s => ⟨reclaimWork_quiet p e s, reclaimWork_outcomes p e s⟩

/-- Work that leaves the state as it is. -/
theorem readingWork_container {work : Port → QEntry → State → State × Answer} (h : ∀ p e s, (work p e s).1 = s) :
    ContainerWork work := fun p e s => by
  rw [h]
  exact ⟨.rfl, .rfl⟩

theorem containerStatusWork_container : ContainerWork containerStatusWork :=
  readingWork_container fun p e s => by unfold containerStatusWork; split <;> rfl

theorem findEmptyWork_container : ContainerWork findEmptyWork :=
  readingWork_container fun p e s => by unfold findEmptyWork; split <;> rfl

/-- The commands of a kind that the container unit takes run one work, whatever the step (R88). -/
theorem exec_containerCommand (k : Kind) (p : Port) : ∃ work, ContainerWork work ∧
    ∀ r c, containerCommand k p r = some c → ∀ s, exec c s = .next (whenPowered s (runContainer k work p r)) := by
  cases k
  case openContainer => exact ⟨_, openContainerWork_container, fun r c h s => by cases h; rfl⟩
  case closeContainer => exact ⟨_, closeContainerWork_container, fun r c h s => by cases h; rfl⟩
  case reclaim => exact ⟨_, reclaimWork_container, fun r c h s => by cases h; rfl⟩
  case findEmpty => exact ⟨_, findEmptyWork_container, fun r c h s => by cases h; rfl⟩
  case containerStatus => exact ⟨_, containerStatusWork_container, fun r c h s => by cases h; rfl⟩
  all_goals exact ⟨_, containerStatusWork_container, fun _ _ h => nomatch h⟩

/-! ## Outcomes handed over (R88, R143, R153) -/

section
variable {s : State} {p : Port} {e : QEntry} {work : Port → QEntry → State → State × Answer}

/-- A container request that can be taken is answered in the event that takes it (R143). -/
theorem containerTake_answered (h : CanTake s p e) (hwork : ContainerWork work) :
    whenPowered s (runContainer e.kind work p (.request (.take e.tag))) =
      answered p e (work p e s).2 (work p e s).1 := by
  obtain ⟨⟨hnotices, hmif⟩, -, -⟩ := hwork p e s
  exact runRequest_answering h work hnotices hmif

theorem fixOutcome_outcomes (hwork : ContainerWork work) :
    (fixOutcome work p e s).ctu.outcomes =
      s.ctu.outcomes ++ [{ port := p, kind := e.kind, tag := e.tag, mark := e.mark, answer := (work p e s).2 }] := by
  obtain ⟨-, houtcomes, -⟩ := hwork p e s
  simp [fixOutcome, houtcomes]

theorem fixOutcome_eq (hwork : ContainerWork work) :
    fixOutcome work p e s =
      { markTaken p e.tag (work p e s).1 with
        ctu := { (work p e s).1.ctu with
          outcomes := s.ctu.outcomes ++
            [{ port := p, kind := e.kind, tag := e.tag, mark := e.mark, answer := (work p e s).2 }] } } := by
  obtain ⟨-, houtcomes, -⟩ := hwork p e s
  simp [fixOutcome, houtcomes]

theorem markTaken_session (p : Port) (tag : Tag) (t : State) :
    (portUnit (markTaken p tag t) p).session = (portUnit t p).session := by
  unfold markTaken updEntry
  rw [portUnit_updPort_same]

/-- A state with the outcomes that it holds already. -/
theorem withOutcomes_eq {t : State} {l : List CtuOutcome} (h : t.ctu.outcomes = l) :
    { t with ctu := { t.ctu with outcomes := l } } = t := by
  subst h
  rfl

/-- An outcome sent for a request noted as taken is the answer of the request: it leaves the queue as it stood before the
note (R143). -/
theorem answer_markTaken {t : State} (h : IsQueued t p e) (hr : t.mif.restartTaken = false) (a : Answer) :
    answer p e.tag e.mark a (markTaken p e.tag t) = answered p e a t := by
  obtain ⟨hqueued, hmark⟩ := h
  rw [answer_sent a (queued_markTaken hqueued) (hmark.trans (markTaken_session p e.tag t).symm) (by simp [hr])]
  unfold answered markTaken updEntry
  rw [updPort_updPort]
  exact updPort_congr (by dsimp only; rw [filter_markTaken])

theorem isOutcome_iff (k : Kind) (p : Port) (tag : Tag) (o : CtuOutcome) :
    isOutcome k p tag o = true ↔ o.kind = k ∧ o.port = p ∧ o.tag = tag := by
  simp [isOutcome, and_assoc]

theorem isOutcome_eq_false {k : Kind} {p : Port} {tag : Tag} {o : CtuOutcome}
    (h : ¬ (o.kind = k ∧ o.port = p ∧ o.tag = tag)) : isOutcome k p tag o = false := by
  rw [← Bool.not_eq_true, isOutcome_iff]
  exact h

/-- The handing of an outcome just fixed, where none of the same name stands before it, is the answer in one event. -/
theorem handOutcome_fixOutcome (h : CanTake s p e) (hwork : ContainerWork work)
    (hnone : ∀ o ∈ s.ctu.outcomes, isOutcome e.kind p e.tag o = false) :
    handOutcome e.kind p e.tag (fixOutcome work p e s) = answered p e (work p e s).2 (work p e s).1 := by
  obtain ⟨⟨hnotices, hmif⟩, houtcomes, -⟩ := hwork p e s
  have hmine : isOutcome e.kind p e.tag
      { port := p, kind := e.kind, tag := e.tag, mark := e.mark, answer := (work p e s).2 } = true :=
    (isOutcome_iff _ _ _ _).mpr ⟨rfl, rfl, rfl⟩
  rw [handOutcome_first (post := []) (fixOutcome_outcomes hwork) hnone hmine,
    ← answer_markTaken (h.isQueued.of_notices hnotices) (by rw [hmif]; exact h.restart)]
  rw [fixOutcome_eq hwork, List.append_nil]
  exact congrArg _ (withOutcomes_eq (t := markTaken p e.tag (work p e s).1) (by simpa using houtcomes))

end

/-! ## Two events for one (R19, R20, R88, R132, R142) -/

/-- A turn's grant leaves its turn in progress in a part as powered as before; the operation's end takes it (R19, R20). -/
def Grants (grant : State → Option (State × Turn)) (mine : Turn → Bool) : Prop :=
  ∀ s g, grant s = some g → g.1.ixc.inProgress = some g.2 ∧ mine g.2 = true ∧ g.1.powered = s.powered

theorem grantPort_grants (p : Port) (k : Kind) : Grants (grantPort p k) (isPortTurn p k) := fun s g h => by
  unfold grantPort at h
  split at h
  · exact nomatch h
  · split at h
    · next e _ hnext =>
      cases h
      exact ⟨rfl, by simp [isPortTurn, hnext.2], rfl⟩
    · exact nomatch h

theorem grantBte_grants : Grants grantBte isItemTurn := fun s g h => by
  unfold grantBte at h
  repeat' split at h
  all_goals first | (cases h; exact ⟨rfl, rfl, rfl⟩) | exact nomatch h

theorem grantClu_grants {pick : Update → Option Turn} {mine : Turn → Bool}
    (hpick : ∀ u t, pick u = some t → mine t = true) : Grants (grantClu pick) mine := fun s g h => by
  unfold grantClu at h
  split at h
  · exact nomatch h
  · split at h
    · exact nomatch h
    · next u _ _ t ht =>
      split at h
      · cases h
        exact ⟨rfl, hpick _ t ht, rfl⟩
      · exact nomatch h

theorem entryTurn_isEntryTurn (u : Update) (t : Turn) (h : entryTurn u = some t) : isEntryTurn t = true := by
  cases u <;> cases h
  rfl

theorem freeingTurn_isFreeingTurn (u : Update) (t : Turn) (h : freeingTurn u = some t) : isFreeingTurn t = true := by
  cases u <;> cases h
  rfl

theorem grantSweeper_grants : Grants grantSweeper isSweepTurn := fun s g h => by
  unfold grantSweeper at h
  split at h
  · cases h
    exact ⟨rfl, rfl, rfl⟩
  · exact nomatch h

/-- A command of a turn, in its three steps. -/
def IsTurn (c : OpStep → Instr) : Prop :=
  ∃ grant finish mine, Grants grant mine ∧
    ∀ st s, exec (c st) s = .next (whenPowered s (runTurn grant finish mine st))

theorem isTurn_turnCommand {k : Kind} {p : Port} {c : OpStep → Instr} (h : ∀ st, turnCommand k p st = some (c st)) :
    IsTurn c := by
  have hcommand : ∃ d : OpStep → Instr, (∀ st, turnCommand k p st = some (d st)) ∧ IsTurn d := by
    cases k
    case probe | lookup | ref | move | release | drop | restore | readSlot =>
      exact ⟨_, fun _ => rfl, _, _, _, grantPort_grants p _, fun _ _ => rfl⟩
    all_goals exact nomatch h .grant
  obtain ⟨d, hd, hturn⟩ := hcommand
  have hcd : c = d := funext fun st => Option.some.inj ((h st).symm.trans (hd st))
  exact hcd ▸ hturn

theorem IsTurn.grant_finish {c : OpStep → Instr} (hturn : IsTurn c) {s t : State} (h : exec (c .grant) s = .next t)
    (hin : t.ixc.inProgress ≠ none) (hnone : s.ixc.inProgress = none) (hpow : s.powered = true) :
    exec (c .whole) s = exec (c .finish) t := by
  obtain ⟨grant, finish, mine, hgrants, hexec⟩ := hturn
  rw [hexec] at h
  cases hg : grant s with
  | none =>
    rw [turn_notGranted (by decide) hg] at h
    cases h
    exact absurd hnone hin
  | some g =>
    rw [turn_granted rfl hpow hg] at h
    cases h
    obtain ⟨hprogress, hmine, hpowered⟩ := hgrants s g hg
    rw [hexec, hexec]
    simp only [whenPowered, hpow, hpowered, if_true, runTurn, hg, hprogress, hmine]

/-- Settles O10: arrival then taking, grant then end, and taking then handing. -/
theorem twoStepsAreOneWhole : Obligations.TwoStepsAreOneWhole := by
  refine ⟨fun s t p k f r c hreceiving hroom hok hc harrive c' hc' => ?_, fun s c hkind t hgrant hin hnone hpow => ?_,
    fun s t p e c cf ch htake hc hcf hch houtcomes hfix => ?_⟩
  · obtain ⟨act, hexec⟩ := exec_blockCommand k p
    obtain ⟨-, -, -, hadmitted⟩ := arrive_results hreceiving (kindCode k) (some k) f
    have harrived := hadmitted hroom _ hok
    rw [exec_arrivalCommand_receiving hreceiving, harrived] at harrive
    cases harrive
    rw [hexec _ _ hc, hexec _ _ hc']
    have hpow : s.powered = true := hreceiving.1
    have hpow' : (frameIn p s).powered = true := by simpa [frameIn] using hpow
    simp only [whenPowered, hpow, if_true, runRequest, harrived]
    exact congrArg _ (if_pos hpow').symm
  · have hturn : IsTurn c := by
      rcases hkind with rfl | rfl | rfl | rfl | ⟨k, p, hk⟩
      · exact ⟨_, _, _, grantClu_grants entryTurn_isEntryTurn, fun _ _ => rfl⟩
      · exact ⟨_, _, _, grantClu_grants freeingTurn_isFreeingTurn, fun _ _ => rfl⟩
      · exact ⟨_, _, _, grantBte_grants, fun _ _ => rfl⟩
      · exact ⟨_, _, _, grantSweeper_grants, fun _ _ => rfl⟩
      · exact isTurn_turnCommand hk
    exact hturn.grant_finish hgrant hin hnone hpow
  · obtain ⟨work, hwork, hexec⟩ := exec_containerCommand e.kind p
    rw [hexec _ _ hcf, runContainer_fix htake] at hfix
    cases hfix
    obtain ⟨-, -, hpowered⟩ := hwork p e s
    have hpow : (fixOutcome work p e s).powered = true := by
      rw [fixOutcome_eq hwork]
      simp [hpowered, htake.1]
    rw [hexec _ _ hc, hexec _ _ hch, containerTake_answered htake hwork, whenPowered, if_pos hpow]
    refine congrArg _ (handOutcome_fixOutcome htake hwork fun o ho => isOutcome_eq_false fun hnamed => ?_)
    obtain ⟨hkind, hport, htag⟩ := hnamed
    exact houtcomes o ho hkind hport htag

/-! ## Requests taken outside READY (R70, R112, R136) -/

/-- Settles O11: every taking of a request tests the index state again. -/
theorem requestTakenOutsideReadyIsNotReady : Obligations.RequestTakenOutsideReadyIsNotReady := by
  intro s p e c hpow htake hallowed hqueued hrestart hc
  have hanswered : ∀ act, takeRequest e.kind act p e.tag s = answered p e (.notReady s.mif.indexState) s := fun act => by
    rw [takeRequest_notReady htake hallowed, answerEntry_answered hqueued hrestart]
  rcases hc with hc | hc | ⟨hkind, rfl⟩
  · obtain ⟨act, hexec⟩ := exec_blockCommand e.kind p
    rw [hexec _ _ hc, whenPowered, if_pos hpow]
    exact congrArg _ (hanswered act)
  · obtain ⟨work, -, hexec⟩ := exec_containerCommand e.kind p
    rw [hexec _ _ hc, whenPowered, if_pos hpow]
    exact congrArg _ (hanswered (fixOutcome work))
  · have hwrite := hanswered handChange
    rw [hkind] at hwrite
    exact congrArg _ ((if_pos hpow).trans hwrite)

/-! ## Outcomes sent once or dropped (R88, R143, R153) -/

theorem queued_answered (p : Port) (e : QEntry) (a : Answer) (s : State) : queued (answered p e a s) p e.tag = none := by
  refine queued_none fun x hx => ?_
  unfold answered at hx
  rw [portUnit_updPort_same] at hx
  simpa using (List.mem_filter.mp hx).2

/-- Settles O12: the three results of `answer`, a container request's outcome fixed, and its handing. -/
theorem outcomeIsSentOnceOrDropped : Obligations.OutcomeIsSentOnceOrDropped := by
  refine ⟨fun s p tag mark a => ⟨fun e hqueued hmark hrestart => ?_, answer_dropped a, fun e hqueued hmark hrestart =>
    answer_restarted a hqueued hmark hrestart⟩, fun s p e c cf htake hc hcf => ?_, fun s p k tag c hpow hc => ?_⟩
  · obtain rfl : e.tag = tag := by simpa using List.find?_some hqueued
    have hsent : answer p e.tag mark a s = answered p e a s := answer_sent a hqueued hmark hrestart
    refine ⟨hsent, ?_, by rw [hsent, queued_answered]⟩
    rw [hsent, answered, portUnit_updPort_same]
  · obtain ⟨work, hwork, hexec⟩ := exec_containerCommand e.kind p
    obtain ⟨⟨hnotices, -⟩, houtcomes, -⟩ := hwork p e s
    refine ⟨(work p e s).2, (work p e s).1, ?_, (htake.isQueued.of_notices hnotices).1, houtcomes, ?_⟩
    · rw [hexec _ _ hc, containerTake_answered htake hwork]
    · rw [hexec _ _ hcf, runContainer_fix htake, fixOutcome_eq hwork]
      rfl
  · obtain ⟨work, -, hexec⟩ := exec_containerCommand k p
    have hhand : exec c s = .next (handOutcome k p tag s) := by
      rw [hexec _ _ hc, whenPowered, if_pos hpow]
      rfl
    intro named
    refine ⟨fun hnone => ?_, fun pre o post houtcomes hnamed hpre => ?_⟩
    · rw [hhand, handOutcome_none fun x hx => isOutcome_eq_false (hnone x hx)]
    · have hanswer : exec c s = .next (answer p tag o.mark o.answer
          { s with ctu := { s.ctu with outcomes := pre ++ post } }) := by
        obtain ⟨hkind, hport, htag⟩ := hnamed
        rw [hhand, handOutcome_first houtcomes (fun x hx => isOutcome_eq_false (hpre x hx))
          ((isOutcome_iff k p tag o).mpr ⟨hkind, hport, htag⟩), hport, htag]
      exact ⟨hanswer, fun hdropped => hanswer.trans (congrArg _ (answer_dropped o.answer hdropped))⟩

end Sys2Proof.Machine
end

section
/-! Status requests, parameters and the index clock (R68, R71, R77, R92, R93, R95, R158, R165, R171, R178, R179). -/

namespace Sys2Proof.Machine

/-! ## Module statuses (R171) -/

/-- The status of one module slot, where `counting` says that no slot before it was unfitted or invalid (R171). -/
def slotStatus (counting : Bool) (d : Descriptor) : ModuleStatus :=
  if descriptorValid d = false then .invalid
  else if d.size = 0#8 then .unfitted
  else if counting = true then .counted
  else .ignored

theorem statusFrom_cons (counting : Bool) (d : Descriptor) (rest : List Descriptor) :
    statusFrom counting (d :: rest) =
      slotStatus counting d :: statusFrom (counting && descriptorFitted d) rest := by
  rw [statusFrom, slotStatus, descriptorFitted]
  cases hvalid : descriptorValid d with
  | false => simp
  | true =>
    by_cases hsize : d.size = 0#8
    · simp [hsize]
    · cases counting <;> simp [hsize]

theorem statusFrom_get (counting : Bool) (l : List Descriptor) (i : Nat) :
    (statusFrom counting l)[i]? = l[i]?.map (slotStatus (counting && (l.take i).all descriptorFitted)) := by
  induction l generalizing counting i with
  | nil => rfl
  | cons d rest ih =>
    rw [statusFrom_cons]
    cases i with
    | zero => simp
    | succ i => simp [ih, Bool.and_assoc]

theorem moduleStatus_eq (ds : Four Descriptor) (m : Port) :
    moduleStatus ds m =
      slotStatus (((fourList ds).take (portNumber m)).all descriptorFitted) (fourGet ds m) := by
  unfold moduleStatus
  rw [List.getD_eq_getElem?_getD, statusFrom_get]
  cases m <;> rfl

/-- Every slot before a module slot is fitted. -/
theorem take_fitted_iff (ds : Four Descriptor) (m : Port) :
    ((fourList ds).take (portNumber m)).all descriptorFitted = true ↔
      ∀ n, portNumber n < portNumber m → descriptorFitted (fourGet ds n) = true := by
  constructor
  · intro h n hn
    cases m <;> cases n <;> simp_all [portNumber, fourList, fourGet]
  · intro h
    have h0 := h .p0
    have h1 := h .p1
    have h2 := h .p2
    cases m <;> simp_all [portNumber, fourList, fourGet]

theorem descriptorValid_iff (d : Descriptor) :
    descriptorValid d = true ↔ d.check = d.size ^^^ 0xFF#8 ∧ d.size.toNat ≤ 3 := by
  simp [descriptorValid]

theorem descriptorFitted_iff (d : Descriptor) :
    descriptorFitted d = true ↔ (d.check = d.size ^^^ 0xFF#8 ∧ d.size.toNat ≤ 3) ∧ d.size ≠ 0#8 := by
  rw [descriptorFitted, Bool.and_eq_true, descriptorValid_iff, decide_eq_true_iff]

theorem slotStatus_counted_iff (counting : Bool) (d : Descriptor) :
    slotStatus counting d = .counted ↔ counting = true ∧ descriptorFitted d = true := by
  unfold slotStatus descriptorFitted
  cases descriptorValid d with
  | false => simp
  | true =>
    by_cases hsize : d.size = 0#8
    · simp [hsize]
    · cases counting <;> simp [hsize]

/-- The size of a fitted module by its code (R171). -/
theorem moduleSlots_of_fitted {d : Descriptor} (h : descriptorFitted d = true) :
    moduleSlots d = if d.size = 1#8 then 16777216 else if d.size = 2#8 then 33554432 else 67108864 := by
  obtain ⟨⟨-, hle⟩, hne⟩ := (descriptorFitted_iff d).mp h
  have hcases : d.size = 1#8 ∨ d.size = 2#8 ∨ d.size = 3#8 := by bv_omega
  unfold moduleSlots
  rcases hcases with h | h | h <;> rw [h] <;> rfl

/-- The capacity is the sum of the sizes of the slots whose status is counted (R171). -/
theorem capacityOf_eq_sum (ds : Four Descriptor) :
    capacityOf ds =
      (allPorts.map fun n => if moduleStatus ds n = .counted then moduleSlots (fourGet ds n) else 0).sum := by
  obtain ⟨d0, d1, d2, d3⟩ := ds
  simp only [moduleStatus_eq, slotStatus_counted_iff]
  cases h0 : descriptorFitted d0 with
  | false => simp [capacityOf, countedSizes, fourList, fourGet, allPorts, portNumber, h0]
  | true =>
    cases h1 : descriptorFitted d1 with
    | false => simp [capacityOf, countedSizes, fourList, fourGet, allPorts, portNumber, h0, h1]
    | true =>
      cases h2 : descriptorFitted d2 with
      | false => simp [capacityOf, countedSizes, fourList, fourGet, allPorts, portNumber, h0, h1, h2]
      | true =>
        cases h3 : descriptorFitted d3 <;>
          simp [capacityOf, countedSizes, fourList, fourGet, allPorts, portNumber, h0, h1, h2, h3]

theorem moduleStatus_counted_fitted {ds : Four Descriptor} {m : Port} (h : moduleStatus ds m = .counted) :
    descriptorFitted (fourGet ds m) = true := by
  rw [moduleStatus_eq, slotStatus_counted_iff] at h
  exact h.2

/-! ## Status requests (R68, R71, R77, R95, R158, R165, R178, R179) -/

/-- Settles O13: the statuses of the module slots, and each status request by what its work reports. -/
theorem statusRequestsReport : Obligations.StatusRequestsReport := by
  refine ⟨fun ds m => ?_, fun s p e htake => ?_⟩
  · intro valid slots
    have hvalid : ∀ d, descriptorValid d = true ↔ valid d := descriptorValid_iff
    have hfitted : ∀ d, descriptorFitted d = true ↔ valid d ∧ d.size ≠ 0#8 := descriptorFitted_iff
    have hinvalid : ¬ valid (fourGet ds m) → descriptorValid (fourGet ds m) = false := fun h =>
      Bool.eq_false_iff.mpr fun htrue => h ((hvalid _).mp htrue)
    refine ⟨fun h => ?_, fun h hsize => ?_, fun h hsize => ⟨fun hbefore => ?_, fun hbefore => ?_⟩, ?_⟩
    · rw [moduleStatus_eq, slotStatus, if_pos (hinvalid h)]
    · rw [moduleStatus_eq, slotStatus, (hvalid _).mpr h, if_neg (by decide), if_pos hsize]
    · rw [moduleStatus_eq, slotStatus_counted_iff, take_fitted_iff]
      exact ⟨fun n hn => (hfitted _).mpr (hbefore n hn), (hfitted _).mpr ⟨h, hsize⟩⟩
    · obtain ⟨n, hn, hunfitted⟩ := hbefore
      have hcounting : ((fourList ds).take (portNumber m)).all descriptorFitted = false := by
        rw [Bool.eq_false_iff, ne_eq, take_fitted_iff]
        intro hall
        obtain ⟨hv, hne⟩ := (hfitted _).mp (hall n hn)
        exact hunfitted.elim (fun h => h hv) hne
      rw [moduleStatus_eq, slotStatus, (hvalid _).mpr h, if_neg (by decide), if_neg hsize, hcounting,
        if_neg (by decide)]
    · rw [capacityOf_eq_sum]
      refine congrArg _ (List.map_congr_left fun n _ => ?_)
      split
      · next hcounted => exact moduleSlots_of_fitted (moduleStatus_counted_fitted hcounted)
      · rfl
  · refine ⟨fun hkind => ?_, fun hkind => ?_, fun hkind => ?_, fun hkind => ?_, fun q hreq hkind => ?_,
      fun c hreq hkind => ?_⟩
    · exact congrArg _ (request_answered htake hkind rfl .rfl)
    · exact congrArg _ (request_answered htake hkind rfl .rfl)
    · exact congrArg _ (request_answered htake hkind rfl .rfl)
    · exact congrArg _ (request_answered htake hkind rfl .rfl)
    · exact congrArg _ (request_answered htake hkind (by rw [getParameterWork, hreq]; rfl) .rfl)
    · exact congrArg _ (request_answered htake hkind (by rw [containerStatusWork, hreq]) .rfl)

/-! ## The index clock (R92, R93, R173) -/

theorem clockSaveDue_iff {s : State} (h : s.tmb.clockLoaded = true) :
    clockSaveDue s = true ↔ s.mem.header.clock.toNat + 60 ≤ s.tmb.clock.toNat := by
  unfold clockSaveDue
  rw [h, Bool.true_and, decide_eq_true_iff]
  rfl

theorem secondPassed_iff {s : State} (h : s.tmb.clockLoaded = true) : secondPassed s = true ↔ 1000 ≤ s.tmb.secondMs := by
  unfold secondPassed
  rw [h, Bool.true_and, decide_eq_true_iff]
  rfl

/-- The clock a second later (R92). -/
theorem nextClock_toNat (c : BitVec 40) :
    (BitVec.ofNat 40 (min Config.clockMax (c.toNat + 1))).toNat = min (2 ^ 40 - 1) (c.toNat + 1) := by
  rw [BitVec.toNat_ofNat, Nat.mod_eq_of_lt]
  · rfl
  · exact Nat.lt_of_le_of_lt (Nat.min_le_left _ _) (by decide)

/-- Settles O15: a save where it is due, and a second where it has passed. -/
theorem indexClockAdvancesAndIsSaved : Obligations.IndexClockAdvancesAndIsSaved := by
  intro s hpow hloaded saved
  have hdue := clockSaveDue_iff hloaded
  have hpassed := secondPassed_iff hloaded
  have hexec : exec .clockSave s = .next (doWhen (clockSaveDue s) saveClock s) := congrArg _ (if_pos hpow)
  have hadvance : exec .indexClockAdvance s = .next (doWhen (secondPassed s) advanceClock s) := congrArg _ (if_pos hpow)
  refine ⟨fun h => ?_, fun h => ?_, fun h => ⟨advanceClock s, ?_, ?_⟩, fun h => ?_⟩
  · rw [hexec, doWhen_of _ _ (hdue.mpr h)]
    rfl
  · rw [hexec, doWhen_of_not _ _ (fun hsave => absurd (hdue.mp hsave) (Nat.not_le.mpr h))]
  · rw [hadvance, doWhen_of _ _ (hpassed.mpr h)]
  · have hclock := nextClock_toNat s.tmb.clock
    unfold advanceClock
    by_cases hsave : s.mem.header.clock.toNat + 60 ≤ s.tmb.clock.toNat
    · rw [doWhen_of _ _ (hdue.mpr hsave), if_pos hsave]
      exact ⟨hclock, rfl, rfl, rfl, rfl, rfl, rfl, rfl, rfl, rfl, rfl, rfl, rfl, rfl⟩
    · rw [doWhen_of_not _ _ (fun htrue => hsave (hdue.mp htrue)), if_neg hsave]
      exact ⟨hclock, rfl, rfl, rfl, rfl, rfl, rfl, rfl, rfl, rfl, rfl, rfl, rfl, rfl⟩
  · rw [hadvance, doWhen_of_not _ _ (fun hsecond => absurd (hpassed.mp hsecond) (Nat.not_le.mpr h))]

end Sys2Proof.Machine
end

section
/-! SET_PARAMETER in its two events: the value written and handed over, and put in force by its owner (R12, R44, R86, R97,
R153, R163, R173, R178). -/

namespace Sys2Proof.Machine

/-! ## Values of parameters (R178, R184) -/

theorem le_of_paramInRange {q : Param} {x : Nat} (h : paramInRange q x = true) : x ≤ (paramRange q).2 := by
  rw [paramInRange, Bool.and_eq_true] at h
  exact of_decide_eq_true h.2

theorem paramValue_paramSet_same {q : Param} {x : Nat} (v : Params) (h : paramInRange q x = true) :
    paramValue (paramSet v q x) q = x := by
  cases q
  case sweepMode =>
    obtain rfl | rfl | rfl : x = 0 ∨ x = 1 ∨ x = 2 := by
      have hle := le_of_paramInRange h
      simp only [paramRange] at hle
      omega
    all_goals rfl
  case statsMode =>
    obtain rfl | rfl : x = 0 ∨ x = 1 := by
      have hle := le_of_paramInRange h
      simp only [paramRange] at hle
      omega
    all_goals rfl
  all_goals rfl

theorem paramValue_paramSet_ne {q r : Param} (v : Params) (x : Nat) (h : r ≠ q) :
    paramValue (paramSet v q x) r = paramValue v r := by
  cases q <;> cases r <;> first | exact absurd rfl h | rfl

/-! ## A change put in force (R12, R86, R97, R163, R178) -/

/-- The blocks that a change of parameter in force speaks of are those of another state. -/
def SameBlocks (t s : State) : Prop :=
  t.params = s.params ∧ t.swp = s.swp ∧ t.stu = s.stu ∧ t.ixc = s.ixc ∧ t.ctu = s.ctu ∧ t.clu = s.clu ∧ t.bte = s.bte ∧
    t.tmb = s.tmb ∧ t.nst = s.nst ∧ t.linkOut = s.linkOut

theorem ParamInForce.of_same {q : Param} {v : Nat} {s s' t t' : State} (h : ParamInForce q v s t) (hs : SameBlocks s' s)
    (ht : SameBlocks t' t) (hstate : s'.mif.indexState = s.mif.indexState)
    (hdescriptors : s'.mif.descriptors = s.mif.descriptors) : ParamInForce q v s' t' := by
  obtain ⟨hparams, hswp, hstu, hixc, hctu, hclu, hbte, htmb, hnst, hlink⟩ := hs
  obtain ⟨hparams', hswp', hstu', hixc', hctu', hclu', hbte', htmb', hnst', hlink'⟩ := ht
  have hcapacity : capacity s' = capacity s := congrArg capacityOf hdescriptors
  unfold ParamInForce at h ⊢
  rw [hparams, hswp, hstu, hixc, hctu, hclu, hbte, htmb, hnst, hlink, hparams', hswp', hstu', hixc', hctu', hclu', hbte',
    htmb', hnst', hlink', hstate, hcapacity]
  exact h

/-- The owners other than those of the two level conditions signal nothing (R12, R86). -/
theorem applyParam_ports {q : Param} (s : State) (hocc : q ≠ .occupancyPct) (hlow : q ≠ .containersLowCount) :
    (applyParam q s).ports = s.ports := by
  cases q
  case occupancyPct => exact absurd rfl hocc
  case containersLowCount => exact absurd rfl hlow
  case sweepMode =>
    unfold applyParam
    dsimp only
    split <;> rfl
  all_goals rfl

/-- A change's effects before its answer. -/
def forced (c : ParamChange) (s : State) : State := applyParam c.param (forceParam c.param c.value s)

theorem changeTaken_eq (c : ParamChange) (s : State) :
    changeTaken c s = answer c.port c.tag c.mark (.done (.parameter c.value)) (forced c s) := rfl

theorem forced_inForce (c : ParamChange) (s : State) : ParamInForce c.param c.value s (forced c s) :=
  applyParam_inForce _ _ s

theorem forced_notices (c : ParamChange) (s : State) : NoticesOnly (forced c s) s :=
  (applyParam_notices _ _).trans (.of_ports (by simp))

theorem forced_mem (c : ParamChange) (s : State) : (forced c s).mem = s.mem := by simp [forced]

theorem forced_mif (c : ParamChange) (s : State) : (forced c s).mif = s.mif := by simp [forced]

theorem forced_ports {c : ParamChange} (s : State) (hocc : c.param ≠ .occupancyPct)
    (hlow : c.param ≠ .containersLowCount) : (forced c s).ports = s.ports :=
  (applyParam_ports _ hocc hlow).trans (by simp)

theorem changeTaken_sameBlocks (c : ParamChange) (s : State) : SameBlocks (changeTaken c s) (forced c s) := by
  rw [changeTaken_eq]
  simp [SameBlocks]

/-! ## A change handed over (R173, R178) -/

/-- The change that a SET_PARAMETER hands to the owner. -/
def newChange (p : Port) (e : QEntry) (q : Param) (v : Nat) : ParamChange :=
  { port := p, tag := e.tag, mark := e.mark, param := q, value := v, units := ⟨false, false, false, false⟩ }

theorem isChange_iff (q : Param) (c : ParamChange) : isChange q c = true ↔ c.param = q := decide_eq_true_iff

theorem isChange_eq_false {q : Param} {c : ParamChange} (h : c.param ≠ q) : isChange q c = false := decide_eq_false h

theorem isUnitChange_iff (u : Port) (c : ParamChange) :
    isUnitChange u c = true ↔ c.param = .lossWindowMs ∧ fourGet c.units u = false := by
  simp [isUnitChange, isChange]

theorem isUnitChange_eq_false {u : Port} {c : ParamChange} (h : ¬ (c.param = .lossWindowMs ∧ fourGet c.units u = false)) :
    isUnitChange u c = false := by
  rw [← Bool.not_eq_true, isUnitChange_iff]
  exact h

/-- The owner of a parameter is busy: the claim unit within an update of its own (R44). -/
def OwnerBusy (s : State) (q : Param) : Prop :=
  q = .claimWindowMs ∧ ∃ n, s.ixc.inProgress = some (.entryUpdate n) ∨ s.ixc.inProgress = some (.freeing n)

theorem ownerFree_eq_false (s : State) (q : Param) : ownerFree s q = false ↔ OwnerBusy s q := by
  rw [ownerFree_false, cluBusy_iff]
  rfl

theorem ownerFree_of {s : State} {q : Param} (h : ¬ OwnerBusy s q) : ownerFree s q = true := by
  rw [← Bool.not_eq_false, ownerFree_eq_false]
  exact h

theorem ownerFree_congr {s t : State} (h : t.ixc = s.ixc) (q : Param) : ownerFree t q = ownerFree s q := by
  unfold ownerFree cluBusy
  rw [h]

section
variable {s : State} {p : Port} {e : QEntry} {q : Param} {v : Nat}

theorem handChange_eq (hreq : e.request = .setParameter q v) :
    handChange p e s = setChanges (s.mif.changes ++ [newChange p e q v]) (writeParam q v (markTaken p e.tag s)) := by
  unfold handChange
  rw [hreq]
  rfl

theorem handChange_changes (hreq : e.request = .setParameter q v) :
    (handChange p e s).mif.changes = s.mif.changes ++ [newChange p e q v] := by
  rw [handChange_eq hreq]
  rfl

theorem takeParameter_eq (hreq : e.request = .setParameter q v) :
    takeParameter p e s = doWhen (!s.mif.changes.any (isChange q)) (ownWhole p q) (handChange p e s) := by
  unfold takeParameter
  rw [hreq]

/-- An earlier change of the parameter leaves the new one to its owner's own events. -/
theorem takeParameter_waits (hreq : e.request = .setParameter q v) (h : ∃ x ∈ s.mif.changes, x.param = q) :
    takeParameter p e s = handChange p e s := by
  obtain ⟨x, hx, hparam⟩ := h
  have hany : s.mif.changes.any (isChange q) = true := List.any_eq_true.mpr ⟨x, hx, (isChange_iff q x).mpr hparam⟩
  rw [takeParameter_eq hreq, hany]
  rfl

theorem takeParameter_owned (hreq : e.request = .setParameter q v) (h : ∀ x ∈ s.mif.changes, x.param ≠ q) :
    takeParameter p e s = ownWhole p q (handChange p e s) := by
  have hany : s.mif.changes.any (isChange q) = false := List.any_eq_false.mpr fun x hx htrue =>
    h x hx ((isChange_iff q x).mp htrue)
  rw [takeParameter_eq hreq, hany]
  rfl

theorem ownWhole_own (hq : q ≠ .lossWindowMs) (s : State) : ownWhole p q s = ownChange p q s := if_neg hq

theorem ownWhole_units (p : Port) (s : State) :
    ownWhole p .lossWindowMs s = unitChange p .p3 (unitChange p .p2 (unitChange p .p1 (unitChange p .p0 s))) := rfl

/-- The four port units take a change of LOSS_WINDOW_MS one behind the other, and the last ends it. -/
theorem unitChanges_whole {t : State} {l : List ParamChange} {c : ParamChange} (ht : t.mif.changes = l ++ [c])
    (hl : ∀ x ∈ l, x.param ≠ .lossWindowMs) (hc : c.param = .lossWindowMs) (hunits : c.units = ⟨false, false, false, false⟩) :
    ownWhole c.port .lossWindowMs t = changeTaken c (setChanges l t) := by
  have hpre : ∀ u, ∀ x ∈ l, isUnitChange u x = false := fun u x hx => isUnitChange_eq_false fun h => hl x hx h.1
  have hmine : ∀ u units, fourGet units u = false → isUnitChange u { c with units := units } = true := fun u units h =>
    (isUnitChange_iff u _).mpr ⟨hc, h⟩
  have ht' : t.mif.changes = l ++ [{ c with units := ⟨false, false, false, false⟩ }] := by rw [ht, ← hunits]
  have h0 := unitChange_first (u := .p0) ht' (hpre .p0) (hmine .p0 _ rfl) ⟨.p3, by decide, rfl⟩
  have h1 := unitChange_first (s := setChanges (l ++ [{ c with units := ⟨true, false, false, false⟩ }]) t) (u := .p1) rfl
    (hpre .p1) (hmine .p1 _ rfl) ⟨.p3, by decide, rfl⟩
  have h2 := unitChange_first (s := setChanges (l ++ [{ c with units := ⟨true, true, false, false⟩ }]) t) (u := .p2) rfl
    (hpre .p2) (hmine .p2 _ rfl) ⟨.p3, by decide, rfl⟩
  have h3 := unitChange_last (s := setChanges (l ++ [{ c with units := ⟨true, true, true, false⟩ }]) t) (u := .p3) rfl
    (hpre .p3) (hmine .p3 _ rfl) (fun v hv => by cases v <;> first | rfl | exact absurd rfl hv)
  rw [List.append_nil] at h3
  exact (congrArg (fun t => unitChange c.port .p3 (unitChange c.port .p2 (unitChange c.port .p1 t))) h0).trans
    ((congrArg (fun t => unitChange c.port .p3 (unitChange c.port .p2 t)) h1).trans
      ((congrArg (unitChange c.port .p3) h2).trans h3))

/-- A change handed over behind no other of its parameter, and whose owner is free, is taken. -/
theorem ownWhole_handChange (hreq : e.request = .setParameter q v) (h : ∀ x ∈ s.mif.changes, x.param ≠ q)
    (hfree : ownerFree s q = true) :
    ownWhole p q (handChange p e s) =
      changeTaken (newChange p e q v) (setChanges s.mif.changes (handChange p e s)) := by
  have hchanges := handChange_changes (s := s) (p := p) hreq
  by_cases hq : q = .lossWindowMs
  · subst hq
    exact unitChanges_whole (c := newChange p e .lossWindowMs v) hchanges h rfl rfl
  · have hfree' : ownerFree (handChange p e s) q = true := by
      rw [ownerFree_congr (s := s) (by simp)]
      exact hfree
    have hfirst := ownChange_first hchanges h hq hfree'
    rw [List.append_nil] at hfirst
    exact (ownWhole_own hq _).trans hfirst

/-- A change handed over whose owner is busy stays handed over. -/
theorem ownWhole_busy (hbusy : OwnerBusy s q) (t : State) (ht : t.ixc = s.ixc) : ownWhole p q t = t := by
  have hfree : ownerFree t q = false := by
    rw [ownerFree_congr ht]
    exact (ownerFree_eq_false s q).mpr hbusy
  obtain ⟨rfl, -⟩ := hbusy
  exact (ownWhole_own (by decide) t).trans (ownChange_waits fun _ _ => .inr (.inr hfree))

end

/-! ## The four parts of the statement -/

/-- A change taken in the event that hands it over: in force, written, and its request answered. -/
theorem changeTaken_handed {s : State} {p : Port} {e : QEntry} {q : Param} {v : Nat} (htake : CanTake s p e)
    (hreq : e.request = .setParameter q v) :
    let t := changeTaken (newChange p e q v) (setChanges s.mif.changes (handChange p e s))
    ParamInForce q v s t ∧ t.mem = (handChange p e s).mem ∧ t.mif = s.mif ∧
      (portUnit t p).queue = (portUnit s p).queue.filter (fun x => decide (x.tag ≠ e.tag)) ∧
      (portUnit t p).responses =
        (portUnit s p).responses ++ [{ kind := kindCode e.kind, tag := e.tag, answer := .done (.parameter v) }] ∧
      (q ≠ .occupancyPct → q ≠ .containersLowCount → ∀ r, r ≠ p → portUnit t r = portUnit s r) := by
  intro t
  have hsettled : setChanges s.mif.changes (handChange p e s) = writeParam q v (markTaken p e.tag s) := by
    rw [handChange_eq hreq]
    rfl
  have hports : (writeParam q v (markTaken p e.tag s)).ports = (markTaken p e.tag s).ports := by simp
  have hnotices : NoticesOnly (forced (newChange p e q v) (setChanges s.mif.changes (handChange p e s)))
      (markTaken p e.tag s) := by
    rw [hsettled]
    exact (forced_notices _ _).trans (.of_ports hports)
  have hmif : (setChanges s.mif.changes (handChange p e s)).mif = s.mif := by
    rw [hsettled]
    simp
  obtain ⟨hqueued, hmark⟩ := htake.isQueued
  have hsent := answer_sent (s := forced (newChange p e q v) (setChanges s.mif.changes (handChange p e s)))
    (p := p) (tag := e.tag) (mark := e.mark) (e := { e with taken := true }) (.done (.parameter v))
    (by unfold queued; rw [(hnotices p).queue]; exact queued_markTaken hqueued)
    (by rw [(hnotices p).session, markTaken_session]; exact hmark) (by rw [forced_mif, hmif]; exact htake.restart)
  have ht : t = _ := hsent
  have hsame : SameBlocks s (setChanges s.mif.changes (handChange p e s)) := by simp [SameBlocks]
  refine ⟨(forced_inForce (newChange p e q v) _).of_same hsame (changeTaken_sameBlocks _ _) (by rw [hmif]) (by rw [hmif]),
    ?_, ?_, ?_, ?_, fun hocc hlow r hr => ?_⟩
  · simp [t]
  · exact (changeTaken_frame _ _).2.2.2.2.2.2.1.trans hmif
  · rw [ht, portUnit_updPort_same]
    dsimp only
    rw [(hnotices p).queue]
    unfold markTaken updEntry
    rw [portUnit_updPort_same]
    exact filter_markTaken e.tag _
  · rw [ht, portUnit_updPort_same]
    dsimp only
    rw [(hnotices p).responses]
    unfold markTaken updEntry
    rw [portUnit_updPort_same]
  · rw [ht, portUnit_updPort_ne _ _ hr]
    have hforced : portUnit (forced (newChange p e q v) (setChanges s.mif.changes (handChange p e s))) r =
        portUnit (markTaken p e.tag s) r :=
      portUnit_ports _ _ ((forced_ports _ hocc hlow).trans (by rw [hsettled]; exact hports)) r
    rw [hforced]
    exact portUnit_updPort_ne _ _ hr

/-- Settles O14: the value written and handed over, then its owner's events, and the value of LOSS_WINDOW_MS that a port
unit has taken. -/
theorem setParameterTakesEffect : Obligations.SetParameterTakesEffect := by
  refine ⟨fun v => ⟨rfl, rfl, rfl, rfl, rfl, rfl, rfl, rfl, rfl⟩,
    fun v q x h => ⟨paramValue_paramSet_same v h, fun r hr => paramValue_paramSet_ne v x hr⟩,
    fun s p e q v htake hkind hreq => ?_, fun s p q hpow => ?_, fun s p u hpow => ?_, fun s u => ?_⟩
  · intro area written change h busy take
    have hh : handChange p e s = h := handChange_eq hreq
    have hpow : h.powered = true := by
      rw [← hh]
      simpa using htake.1
    have htaken : exec take s = .next (takeParameter p e s) := congrArg _ (request_taken htake hkind takeParameter)
    refine ⟨?_, fun hwaits => ?_, fun hnone hq => ?_, fun hnone hq => ?_, fun hnone hbusy => ?_⟩
    · have hwrite := takeRequest_write htake handChange
      rw [hkind] at hwrite
      rw [← hh, ← hwrite]
      exact congrArg _ (if_pos htake.1)
    · rw [htaken]
      by_cases hnone : ∃ x ∈ s.mif.changes, x.param = q
      · rw [takeParameter_waits hreq hnone, hh]
      · rw [takeParameter_owned hreq fun x hx hparam => hnone ⟨x, hx, hparam⟩,
          ownWhole_busy (hwaits.resolve_left hnone) _ (by simp), hh]
    · rw [htaken, takeParameter_owned hreq hnone, hh, ownWhole_own hq]
      exact congrArg _ (if_pos hpow).symm
    · subst hq
      have hunit : ∀ (t : State) (u : Port), t.powered = true →
          exec (.setParameter p (.unit u)) t = .next (unitChange p u t) := fun t u ht => congrArg _ (if_pos ht)
      refine ⟨_, _, _, hunit h .p0 hpow, hunit _ .p1 (by simpa using hpow), hunit _ .p2 (by simpa using hpow), ?_⟩
      rw [hunit _ .p3 (by simpa using hpow), htaken, takeParameter_owned hreq hnone, hh, ownWhole_units]
    · rw [htaken, takeParameter_owned hreq hnone, ownWhole_handChange hreq hnone (ownerFree_of hbusy)]
      have hresult := changeTaken_handed htake hreq
      rw [hh] at hresult ⊢
      exact ⟨_, rfl, hresult⟩
  · have hown : exec (.setParameter p (.own q)) s = .next (ownChange p q s) := congrArg _ (if_pos hpow)
    refine ⟨fun h => ?_, fun c pre post hchanges hc hq hpre => ?_⟩
    · rw [hown, ownChange_waits fun c hc => ?_]
      rcases h with h | h
      · exact .inr (.inl h)
      · exact absurd ((isChange_iff q c).mp (List.find?_some hc)) (h c (List.mem_of_find?_eq_some hc))
    · subst hc
      intro busy
      refine ⟨fun h => ?_, fun hport hbusy => ⟨forced c (setChanges (pre ++ post) s), ?_, ?_, forced_mem _ _, forced_mif _ _,
        fun r => exists_notices_eq ((forced_notices c (setChanges (pre ++ post) s)).trans (.of_ports rfl) r),
        fun hocc hlow => forced_ports _ hocc hlow⟩⟩
      · rw [hown, ownChange_waits fun x hx => ?_]
        obtain ⟨hfind, -, -⟩ := split_first (f := isChange c.param) (pre := pre) (post := post) (c := c)
          (fun x hx => isChange_eq_false (hpre x hx)) ((isChange_iff _ _).mpr rfl) id
        rw [hchanges, hfind] at hx
        cases hx
        exact h.imp id fun hbusy => .inr ((ownerFree_eq_false s c.param).mpr hbusy)
      · subst hport
        rw [hown, ownChange_first hchanges hpre hq (ownerFree_of hbusy), changeTaken_eq]
      · exact (forced_inForce c (setChanges (pre ++ post) s)).of_same (by simp [SameBlocks]) (by simp [SameBlocks]) rfl rfl
  · intro mine
    have hunit : exec (.setParameter p (.unit u)) s = .next (unitChange p u s) := congrArg _ (if_pos hpow)
    refine ⟨fun h => ?_, fun c pre post hchanges hmine hpre => ?_⟩
    · rw [hunit, unitChange_waits fun c hc => ?_]
      exact absurd ((isUnitChange_iff u c).mp (List.find?_some hc)) (h c (List.mem_of_find?_eq_some hc))
    · have hfirst : ∀ x ∈ pre, isUnitChange u x = false := fun x hx => isUnitChange_eq_false (hpre x hx)
      have hc : isUnitChange u c = true := (isUnitChange_iff u c).mpr hmine
      refine ⟨fun hport => ?_, fun hport hothers => ?_, fun hport hothers => ?_⟩
      · rw [hunit, unitChange_waits fun x hx => ?_]
        obtain ⟨hfind, -, -⟩ := split_first (post := post) hfirst hc id
        rw [hchanges, hfind] at hx
        cases hx
        exact hport
      · subst hport
        rw [hunit, unitChange_first hchanges hfirst hc hothers]
        rfl
      · subst hport
        obtain ⟨hparam, -⟩ := hmine
        rw [hunit, unitChange_last hchanges hfirst hc hothers, changeTaken_eq, forced, hparam]
        rfl
  · intro took
    have htook : ∀ x : ParamChange, (decide (x.param = .lossWindowMs) && fourGet x.units u) = true ↔ took x := fun x => by
      simp [took]
    refine ⟨fun h => ?_, fun c pre post hchanges hc hpost => ?_⟩
    · unfold lossWindow
      rw [List.find?_eq_none.mpr fun x hx htrue => h x (List.mem_reverse.mp hx) ((htook x).mp htrue)]
    · obtain ⟨hfind, -, -⟩ := split_first (f := fun x : ParamChange => decide (x.param = .lossWindowMs) && fourGet x.units u)
        (pre := post.reverse) (post := pre.reverse) (c := c)
        (fun x hx => Bool.eq_false_iff.mpr fun htrue => hpost x (List.mem_reverse.mp hx) ((htook x).mp htrue))
        ((htook c).mpr hc) id
      unfold lossWindow
      rw [hchanges, List.reverse_append, List.reverse_cons, List.append_assoc, List.singleton_append, hfind]

end Sys2Proof.Machine
end

section
/-! Power-on, loss of supply and a part without power (R3, R93, R128, R159, R171 to R173, R175, R176). -/

namespace Sys2Proof.Machine

/-! ## The start (R171, R172) -/

theorem modulesMoved_moveModules (stood : Four (Option Port)) (m : IndexMemory) :
    ModulesMoved stood m (moveModules stood m) := by
  refine ⟨fun h => if_pos h, fun p => ⟨fun j hj => moveModules_get stood m p j hj, ?_⟩⟩
  have hreserved := moveModules_reserved stood m p
  unfold broughtRegion at hreserved
  cases p <;> exact hreserved

theorem startState_noMemory {ds : Four Descriptor} (m : IndexMemory) (h : capacityOf ds = 0) :
    startState ds m = .noMemory := if_pos h

theorem startState_recovering {ds : Four Descriptor} {m : IndexMemory} (h : capacityOf ds ≠ 0)
    (hvalid : headerValid m.header = true) (hcapacity : m.header.capacity.toNat = capacityOf ds) :
    startState ds m = .recovering := (if_neg h).trans (if_pos ⟨hvalid, hcapacity⟩)

theorem startState_unformatted {ds : Four Descriptor} {m : IndexMemory} (h : capacityOf ds ≠ 0)
    (hheader : headerValid m.header = false ∨ m.header.capacity.toNat ≠ capacityOf ds) :
    startState ds m = .unformatted := by
  refine (if_neg h).trans (if_neg ?_)
  rintro ⟨hvalid, hcapacity⟩
  exact hheader.elim (fun hinvalid => absurd (hvalid.symm.trans hinvalid) (by decide)) fun hne => hne hcapacity

/-- The capacity by the first slot that is unfitted or invalid (R171). -/
theorem capacityOf_cases (d0 d1 d2 d3 : Descriptor) :
    capacityOf ⟨d0, d1, d2, d3⟩ =
      if descriptorFitted d0 = false then 0
      else if descriptorFitted d1 = false then moduleSlots d0
      else if descriptorFitted d2 = false then moduleSlots d0 + moduleSlots d1
      else if descriptorFitted d3 = false then moduleSlots d0 + moduleSlots d1 + moduleSlots d2
      else moduleSlots d0 + moduleSlots d1 + moduleSlots d2 + moduleSlots d3 := by
  unfold capacityOf countedSizes fourList
  cases h0 : descriptorFitted d0 with
  | false => simp [h0]
  | true =>
    cases h1 : descriptorFitted d1 with
    | false => simp [h0, h1]
    | true =>
      cases h2 : descriptorFitted d2 with
      | false => simp [h0, h1, h2]
      | true => cases h3 : descriptorFitted d3 <;> simp [h0, h1, h2, h3, Nat.add_assoc]

theorem descriptorFitted_iff_size (d : Descriptor) :
    descriptorFitted d = true ↔ d.check = d.size ^^^ 0xFF#8 ∧ (d.size = 1#8 ∨ d.size = 2#8 ∨ d.size = 3#8) := by
  rw [descriptorFitted_iff, and_assoc]
  exact and_congr_right fun _ => by bv_omega

theorem moduleSlots_eq_pow {d : Descriptor} (h : descriptorFitted d = true) : moduleSlots d = 2 ^ (23 + d.size.toNat) := by
  obtain ⟨-, h⟩ := (descriptorFitted_iff_size d).mp h
  unfold moduleSlots
  rcases h with h | h | h <;> rw [h] <;> rfl

/-! ## Loss of supply (R3, R93, R175, R176) -/

theorem exec_powerLoss {s : State} (h : s.powered = true) (w : WalkPoint) :
    exec (.powerLoss w) s = .next (losePower w s) := congrArg _ (if_pos h)

theorem losePower_mem (w : WalkPoint) (s : State) : (losePower w s).mem = (cutWalk w s).mem := rfl

theorem losePower_mem_recovering {s : State} (h : s.mif.indexState = .recovering) (w : WalkPoint) :
    (losePower w s).mem = cutRecovery s.mif.descriptors w s.mem := by
  rw [losePower_mem, cutWalk, h]
  rfl

theorem losePower_mem_formatting {s : State} (h : s.mif.indexState = .formatting) (w : WalkPoint) :
    (losePower w s).mem = cutFormat s.mif.descriptors w s.mem := by
  rw [losePower_mem, cutWalk, h]
  rfl

theorem losePower_mem_standing {s : State} (hr : s.mif.indexState ≠ .recovering) (hf : s.mif.indexState ≠ .formatting)
    (w : WalkPoint) : (losePower w s).mem = s.mem := by
  rw [losePower_mem, cutWalk]
  split
  · next h => exact absurd h hr
  · next h => exact absurd h hf
  · rfl

theorem stepIf_of {b : Bool} (g : IndexMemory → IndexMemory) (m : IndexMemory) (h : b = true) : stepIf b g m = g m :=
  if_pos h

theorem stepIf_of_not {b : Bool} (g : IndexMemory → IndexMemory) (m : IndexMemory) (h : ¬ b = true) : stepIf b g m = m :=
  if_neg h

/-! ### A recovery cut (R175, log 19) -/

section
variable (ds : Four Descriptor) (w : WalkPoint) (m : IndexMemory)

/-- Index memory after the steps of a cut recovery that concern the header. -/
def cutHeader : IndexMemory :=
  stepIf (decide (2 ≤ w.stage)) recoverClock (stepIf (decide (1 ≤ w.stage)) recoverStartCount m)

/-- Index memory after the settings step of a cut recovery. -/
def cutSettings : IndexMemory := stepIf (decide (3 ≤ w.stage)) recoverSettings (cutHeader w m)

/-- Index memory after the slot walk of a cut recovery. -/
def cutSlots : IndexMemory :=
  stepIf (decide (4 ≤ w.stage)) (recoverSlots ds (walkLimit w 5)) (cutSettings w m)

theorem cutRecovery_eq : cutRecovery ds w m = stepIf (decide (6 ≤ w.stage)) (recoverArea ds) (cutSlots ds w m) := rfl

/-- What the header steps leave of the rest of index memory. -/
theorem cutHeader_fields :
    (cutHeader w m).slots = m.slots ∧ (cutHeader w m).settings = m.settings ∧
      (cutHeader w m).settingsCheck = m.settingsCheck ∧ (cutHeader w m).containers = m.containers ∧
      (cutHeader w m).containersCheck = m.containersCheck := by
  unfold cutHeader stepIf
  split <;> split <;> simp

/-- What the header steps leave in the header (R93, R175). -/
theorem cutHeader_header :
    (cutHeader w m).header.mark = m.header.mark ∧ (cutHeader w m).header.capacity = m.header.capacity ∧
      (cutHeader w m).header.startCount =
        (if 1 ≤ w.stage then m.header.startCount + 1#16 else m.header.startCount) ∧
      (cutHeader w m).header.clock.toNat =
        (if 2 ≤ w.stage then min (2 ^ 40 - 1) (m.header.clock.toNat + 60) else m.header.clock.toNat) ∧
      (cutHeader w m).header.check =
        (if 1 ≤ w.stage then crc16 (headerBytes (cutHeader w m).header) else m.header.check) := by
  unfold cutHeader
  by_cases h1 : 1 ≤ w.stage
  · by_cases h2 : 2 ≤ w.stage
    · rw [stepIf_of _ _ (decide_eq_true h1), stepIf_of _ _ (decide_eq_true h2), if_pos h1, if_pos h2, if_pos h1]
      exact ⟨rfl, rfl, rfl, resumedClock_toNat _, headerFresh_check _⟩
    · rw [stepIf_of _ _ (decide_eq_true h1), stepIf_of_not _ _ (by simpa using h2), if_pos h1, if_neg h2, if_pos h1]
      exact ⟨rfl, rfl, rfl, rfl, headerFresh_check _⟩
  · have h2 : ¬ 2 ≤ w.stage := by omega
    rw [stepIf_of_not _ _ (by simpa using h2), stepIf_of_not _ _ (by simpa using h1), if_neg h1, if_neg h2, if_neg h1]
    exact ⟨rfl, rfl, rfl, rfl, rfl⟩

/-- Settings whose check holds, and those that the walk has not come to, stay as they are (R175). -/
theorem cutSettings_kept (h : w.stage < 3 ∨ m.settingsCheck = settingsCheckOf m.settings) :
    cutSettings w m = cutHeader w m := by
  obtain ⟨-, hsettings, hcheck, -, -⟩ := cutHeader_fields w m
  unfold cutSettings
  by_cases h3 : 3 ≤ w.stage
  · rw [stepIf_of _ _ (decide_eq_true h3)]
    refine recoverSettings_hold ?_
    rw [hsettings, hcheck]
    exact h.resolve_left (Nat.not_lt.mpr h3)
  · exact stepIf_of_not _ _ (by simpa using h3)

theorem cutSettings_defaults (h3 : 3 ≤ w.stage) (h : m.settingsCheck ≠ settingsCheckOf m.settings) :
    cutSettings w m = memSettings defaultSettings (cutHeader w m) := by
  obtain ⟨-, hsettings, hcheck, -, -⟩ := cutHeader_fields w m
  unfold cutSettings
  rw [stepIf_of _ _ (decide_eq_true h3)]
  refine recoverSettings_fail ?_
  rw [hsettings, hcheck]
  exact h

/-- What the settings step leaves of the rest of index memory. -/
theorem cutSettings_fields :
    (cutSettings w m).header = (cutHeader w m).header ∧ (cutSettings w m).slots = m.slots ∧
      (cutSettings w m).containers = m.containers ∧ (cutSettings w m).containersCheck = m.containersCheck := by
  obtain ⟨hslots, -, -, hcontainers, hcheck⟩ := cutHeader_fields w m
  unfold cutSettings stepIf
  split <;> simp [hslots, hcontainers, hcheck]

theorem cutHeader_wf (h : m.wf = true) : (cutHeader w m).wf = true :=
  stepIf_wf _ (fun _ => recoverClock_wf) (stepIf_wf _ (fun _ => recoverStartCount_wf) h)

theorem cutSettings_wf (h : m.wf = true) : (cutSettings w m).wf = true :=
  stepIf_wf _ (fun _ => recoverSettings_wf) (cutHeader_wf w m h)

/-- What the slot walk leaves of the rest of index memory. -/
theorem cutSlots_fields :
    (cutSlots ds w m).header = (cutHeader w m).header ∧ (cutSlots ds w m).settings = (cutSettings w m).settings ∧
      (cutSlots ds w m).settingsCheck = (cutSettings w m).settingsCheck ∧
      (cutSlots ds w m).containers = m.containers ∧ (cutSlots ds w m).containersCheck = m.containersCheck := by
  obtain ⟨hheader, -, hcontainers, hcheck⟩ := cutSettings_fields w m
  unfold cutSlots stepIf
  split <;> simp [hheader, hcontainers, hcheck]

theorem cutSlots_slots (h : w.stage < 4) : (cutSlots ds w m).slots = m.slots := by
  obtain ⟨-, hslots, -, -⟩ := cutSettings_fields w m
  unfold cutSlots
  rw [stepIf_of_not _ _ (by simpa using h)]
  exact hslots

/-- Each slot after the walk of a cut recovery: walked where the walk has come so far (R175, log 19). -/
theorem cutSlots_get (h : 4 ≤ w.stage) (hwf : m.wf = true) (k : Nat) :
    tableGet SlotImage.free (cutSlots ds w m).slots k =
      if walked ds (walkLimit w 5) k = true then walkImage (tableGet SlotImage.free m.slots k)
      else tableGet SlotImage.free m.slots k := by
  obtain ⟨-, hslots, -, -⟩ := cutSettings_fields w m
  unfold cutSlots
  rw [stepIf_of _ _ (decide_eq_true h), recoverSlots_get _ _ _ (cutSettings_wf w m hwf), hslots]

/-- What the last step leaves: everything but the container table. -/
theorem cutRecovery_fields :
    (cutRecovery ds w m).header = (cutHeader w m).header ∧ (cutRecovery ds w m).settings = (cutSettings w m).settings ∧
      (cutRecovery ds w m).settingsCheck = (cutSettings w m).settingsCheck ∧
      (cutRecovery ds w m).slots = (cutSlots ds w m).slots := by
  obtain ⟨hheader, hsettings, hcheck, -, -⟩ := cutSlots_fields ds w m
  rw [cutRecovery_eq]
  unfold stepIf
  split <;> simp [hheader, hsettings, hcheck]

theorem cutRecovery_containers (h : w.stage < 6) :
    (cutRecovery ds w m).containers = m.containers ∧ (cutRecovery ds w m).containersCheck = m.containersCheck := by
  obtain ⟨-, -, -, hcontainers, hcheck⟩ := cutSlots_fields ds w m
  rw [cutRecovery_eq, stepIf_of_not _ _ (by simpa using h)]
  exact ⟨hcontainers, hcheck⟩

/-- A recovery cut after its last step has left what a whole one leaves (R175). -/
theorem cutRecovery_whole (h : 6 ≤ w.stage) :
    cutRecovery ds w m =
      recoverArea ds (recoverSlots ds none (recoverSettings (recoverClock (recoverStartCount m)))) := by
  have hlimit : walkLimit w 5 = none := if_pos (by omega)
  rw [cutRecovery_eq, stepIf_of _ _ (decide_eq_true h)]
  unfold cutSlots cutSettings cutHeader
  rw [stepIf_of _ _ (decide_eq_true (by omega)), stepIf_of _ _ (decide_eq_true (by omega)),
    stepIf_of _ _ (decide_eq_true (by omega)), stepIf_of _ _ (decide_eq_true (by omega)), hlimit]

/-! ### A FORMAT cut (R176, log 19) -/

/-- Index memory after the slot walk of a cut FORMAT. -/
def cutFormatSlots : IndexMemory := formatSlots ds (walkLimit w 1) m

/-- Index memory after the container step of a cut FORMAT. -/
def cutFormatArea : IndexMemory := stepIf (decide (2 ≤ w.stage)) formatArea (cutFormatSlots ds w m)

theorem cutFormat_eq : cutFormat ds w m = stepIf (decide (3 ≤ w.stage)) formatSettings (cutFormatArea ds w m) := rfl

/-- What a cut FORMAT leaves of header and slots (R176). -/
theorem cutFormat_fields :
    (cutFormat ds w m).header = m.header ∧ (cutFormat ds w m).slots = (cutFormatSlots ds w m).slots ∧
      (cutFormat ds w m).containers = (cutFormatArea ds w m).containers ∧
      (cutFormat ds w m).containersCheck = (cutFormatArea ds w m).containersCheck := by
  rw [cutFormat_eq]
  unfold stepIf cutFormatArea stepIf
  split <;> split <;> simp [cutFormatSlots]

theorem cutFormat_containers :
    (w.stage < 2 →
      (cutFormat ds w m).containers = m.containers ∧ (cutFormat ds w m).containersCheck = m.containersCheck) ∧
    (2 ≤ w.stage → (cutFormat ds w m).containers = [] ∧ (cutFormat ds w m).containersCheck = areaCheck []) := by
  obtain ⟨-, -, hcontainers, hcheck⟩ := cutFormat_fields ds w m
  rw [hcontainers, hcheck]
  unfold cutFormatArea
  refine ⟨fun h => ?_, fun h => ?_⟩
  · rw [stepIf_of_not _ _ (by simpa using h)]
    exact ⟨rfl, rfl⟩
  · rw [stepIf_of _ _ (decide_eq_true h)]
    exact ⟨rfl, rfl⟩

theorem cutFormat_settings :
    (w.stage < 3 → (cutFormat ds w m).settings = m.settings ∧ (cutFormat ds w m).settingsCheck = m.settingsCheck) ∧
    (3 ≤ w.stage →
      (cutFormat ds w m).settings = defaultSettings ∧
        (cutFormat ds w m).settingsCheck = settingsCheckOf defaultSettings) := by
  rw [cutFormat_eq]
  refine ⟨fun h => ?_, fun h => ?_⟩
  · rw [stepIf_of_not _ _ (by simpa using h)]
    unfold cutFormatArea stepIf
    split <;> simp [cutFormatSlots]
  · rw [stepIf_of _ _ (decide_eq_true h)]
    exact ⟨rfl, rfl⟩

theorem not_walked {n k : Nat} (h : ∀ i, slotNumber ds k = some i → w.stage < n ∧ w.slot ≤ i) :
    ¬ walked ds (walkLimit w n) k = true := by
  rw [walked_walkLimit]
  rintro ⟨i, hi, hreached⟩
  obtain ⟨hstage, hslot⟩ := h i hi
  omega

end

/-- Loss of supply never changes mark and capacity of the header (R173). -/
theorem losePower_header (w : WalkPoint) (s : State) :
    (losePower w s).mem.header.mark = s.mem.header.mark ∧ (losePower w s).mem.header.capacity = s.mem.header.capacity := by
  by_cases hr : s.mif.indexState = .recovering
  · obtain ⟨hheader, -⟩ := cutRecovery_fields s.mif.descriptors w s.mem
    obtain ⟨hmark, hcapacity, -⟩ := cutHeader_header w s.mem
    rw [losePower_mem_recovering hr, hheader]
    exact ⟨hmark, hcapacity⟩
  · by_cases hf : s.mif.indexState = .formatting
    · obtain ⟨hheader, -⟩ := cutFormat_fields s.mif.descriptors w s.mem
      rw [losePower_mem_formatting hf, hheader]
      exact ⟨rfl, rfl⟩
    · rw [losePower_mem_standing hr hf]
      exact ⟨rfl, rfl⟩

/-! ## A part without power (log 27) -/

/-- Settles O4: the start, the capacity, a cut walk, and the commands of an unpowered part. -/
theorem powerStartsAndStopsThePart : Obligations.PowerStartsAndStopsThePart := by
  refine ⟨fun s i => ?_, fun ds => ?_, fun s w hpow => ?_, fun s c hpow hc => ?_⟩
  · exact ⟨moveModules i.stood s.mem, startState i.descriptors (moveModules i.stood s.mem), rfl,
      modulesMoved_moveModules _ _, startState_noMemory _, startState_recovering, startState_unformatted⟩
  · intro fitted size
    have hcapacity := capacityOf_cases ds.a0 ds.a1 ds.a2 ds.a3
    have hfitted : ∀ d, fitted d → descriptorFitted d = true := fun d => (descriptorFitted_iff_size d).mpr
    have hunfitted : ∀ d, ¬ fitted d → descriptorFitted d = false := fun d h =>
      Bool.eq_false_iff.mpr fun htrue => h ((descriptorFitted_iff_size d).mp htrue)
    have hsize : ∀ d, fitted d → moduleSlots d = size d := fun d h => moduleSlots_eq_pow (hfitted d h)
    refine ⟨fun h0 => ?_, fun h0 h1 => ?_, fun h0 h1 h2 => ?_, fun h0 h1 h2 h3 => ?_, fun h0 h1 h2 h3 => ?_⟩
    · simpa [hunfitted _ h0] using hcapacity
    · simpa [hfitted _ h0, hunfitted _ h1, hsize _ h0] using hcapacity
    · simpa [hfitted _ h0, hfitted _ h1, hunfitted _ h2, hsize _ h0, hsize _ h1] using hcapacity
    · simpa [hfitted _ h0, hfitted _ h1, hfitted _ h2, hunfitted _ h3, hsize _ h0, hsize _ h1, hsize _ h2] using hcapacity
    · simpa [hfitted _ h0, hfitted _ h1, hfitted _ h2, hfitted _ h3, hsize _ h0, hsize _ h1, hsize _ h2, hsize _ h3]
        using hcapacity
  · intro m h ds defaults
    obtain ⟨hmark, hcapacity⟩ := losePower_header w s
    refine ⟨losePower w s, exec_powerLoss hpow w, rfl, hmark, hcapacity, fun hr hf => losePower_mem_standing hr hf w,
      fun hr => ?_, fun hf => ?_⟩
    · rw [losePower_mem_recovering hr]
      obtain ⟨hheader, hsettings, hcheck, hslots⟩ := cutRecovery_fields ds w m
      obtain ⟨-, -, hstart, hclock, hfresh⟩ := cutHeader_header w m
      obtain ⟨-, hsettings', hcheck', -, -⟩ := cutHeader_fields w m
      rw [hheader, hsettings, hcheck, hslots]
      refine ⟨hstart, hclock, hfresh, fun hkept => ?_, fun h3 hfails => ?_, fun h4 => cutSlots_slots ds w m h4,
        fun h4 hwf k => ⟨fun hreached => ?_, fun hbeyond => ?_⟩, fun h6 => cutRecovery_containers ds w m h6, fun h6 => ?_⟩
      · rw [cutSettings_kept w m hkept]
        exact ⟨hsettings', hcheck'⟩
      · rw [cutSettings_defaults w m h3 hfails]
        exact ⟨rfl, rfl⟩
      · rw [cutSlots_get ds w m h4 hwf, if_pos ((walked_walkLimit ds w 5 k).mpr hreached)]
        rfl
      · rw [cutSlots_get ds w m h4 hwf, if_neg (not_walked ds w hbeyond)]
      · refine ⟨recover { s with mif := { s.mif with restartTaken := false } }, ?_, ?_⟩
        · refine congrArg _ ((if_pos hpow).trans (doWhen_of _ _ ?_))
          simp [mayRecover, hr]
        · rw [cutRecovery_whole ds w m h6, recover_mem]
    · rw [losePower_mem_formatting hf]
      obtain ⟨hheader, hslots, -, -⟩ := cutFormat_fields ds w m
      obtain ⟨hearly, hlate⟩ := cutFormat_containers ds w m
      obtain ⟨hkept, hdefaults⟩ := cutFormat_settings ds w m
      rw [hheader, hslots]
      refine ⟨rfl, fun hwf k => ⟨fun hreached => ?_, fun hbeyond => ?_⟩, hearly, hlate, hkept, hdefaults⟩
      · rw [cutFormatSlots, formatSlots_get, if_pos ((walked_walkLimit ds w 1 k).mpr hreached)]
      · rw [cutFormatSlots, formatSlots_get, if_neg (not_walked ds w hbeyond)]
  · cases c
    case powerOn i => exact absurd rfl (hc i)
    case badFrame p r => exact if_pos (.inl hpow)
    case frameDiscardedListFull p r => exact if_pos (.inl hpow)
    all_goals exact congrArg _ (if_neg (by rw [hpow]; decide))

end Sys2Proof.Machine
end

section
/-! Recovery: header and settings, the slot walk, and the containers (R11, R71, R72, R89, R92, R93, R163, R173 to R175,
R179). -/

namespace Sys2Proof.Machine

/-! ## Event sets that grow (R166, R167) -/

/-- The port units keep their states, and their event sets lose nothing. -/
def EventsGrow (t s : State) : Prop :=
  ∀ p, (portUnit t p).state = (portUnit s p).state ∧ ∀ k, hasEvent s p k → hasEvent t p k

theorem EventsGrow.trans {a b c : State} (h : EventsGrow a b) (k : EventsGrow b c) : EventsGrow a c := fun p =>
  ⟨(h p).1.trans (k p).1, fun e he => (h p).2 e ((k p).2 e he)⟩

/-- Events kept where the set is the old one, or that one with more. -/
theorem getLsbD_of_grown {v w x : BitVec 13} {c : Prop} [Decidable c] (h : w = if c then v ||| x else v) {i : Nat}
    (hi : v.getLsbD i = true) : w.getLsbD i = true := by
  rw [h]
  split
  · rw [BitVec.getLsbD_or, hi, Bool.true_or]
  · exact hi

theorem raiseAll_grows (k : EventKind) (s : State) : EventsGrow (raiseAll k s) s := fun p => by
  have hunit : portUnit (raiseAll k s) p = unitRaise k (portUnit s p) := portUnit_updPorts _ s p
  unfold hasEvent
  rw [hunit]
  refine ⟨(unitRaise_notices k _).state, fun e he => ?_⟩
  refine getLsbD_of_grown (c := (portUnit s p).state ≠ .down) (x := BitVec.twoPow 13 (eventCode k)) ?_ he
  rw [unitRaise_events, ite_not]

theorem evalOccupancy_grows (s : State) : EventsGrow (evalOccupancy s) s := fun p => by
  refine ⟨(evalOccupancy_notices s p).state, fun e he => ?_⟩
  unfold hasEvent
  rw [portUnit_evalOccupancy]
  split
  · exact he
  · exact getLsbD_of_grown (unitSignalOccupancy_events _ _) he

theorem evalContainersLow_grows (s : State) : EventsGrow (evalContainersLow s) s := fun p => by
  refine ⟨(evalContainersLow_notices s p).state, fun e he => ?_⟩
  unfold hasEvent
  rw [portUnit_evalContainersLow]
  split
  · exact he
  · exact getLsbD_of_grown (unitSignalLow_events _ _) he

/-- An event raised to all ports is in the event set of every port that is not DOWN (R166). -/
theorem hasEvent_raiseAll {s : State} {p : Port} (k : EventKind) (h : (portUnit (raiseAll k s) p).state ≠ .down) :
    hasEvent (raiseAll k s) p k := by
  rw [((raiseAll_grows k s) p).1] at h
  have hunit : portUnit (raiseAll k s) p = unitRaise k (portUnit s p) := portUnit_updPorts _ s p
  unfold hasEvent
  rw [hunit, unitRaise_events, if_neg h, BitVec.getLsbD_or, BitVec.getLsbD_twoPow]
  cases k <;> simp [eventCode]

/-! ## READY (R12, R86, R95, R163, R174) -/

/-- The state that becomes READY, before the level conditions are evaluated and INDEX_READY is raised. -/
def readied (s : State) : State :=
  { s with
    mif := { s.mif with indexState := .ready }, swp := { s.swp with cursor := 0, allowance := 0 },
    stu := { s.stu with timer := if s.params.statsMode = .interval then some 0 else none } }

theorem enterReady_eq (s : State) :
    enterReady s = raiseAll .indexReady (evalContainersLow (evalOccupancy (readied s))) := rfl

theorem enterReady_grows (s : State) : EventsGrow (enterReady s) s := by
  have hready : EventsGrow (readied s) s := fun p => ⟨rfl, fun k hk => hk⟩
  exact (raiseAll_grows _ _).trans ((evalContainersLow_grows _).trans ((evalOccupancy_grows _).trans hready))

theorem enterReady_notices (s : State) : NoticesOnly (enterReady s) s := by
  have hready : NoticesOnly (readied s) s := .of_ports rfl
  exact (raiseAll_notices _ _).trans ((evalContainersLow_notices _).trans ((evalOccupancy_notices _).trans hready))

theorem hasEvent_enterReady {s : State} {p : Port} (h : (portUnit (enterReady s) p).state ≠ .down) :
    hasEvent (enterReady s) p .indexReady := hasEvent_raiseAll _ h

/-- What becoming READY leaves of each block. -/
theorem enterReady_blocks (s : State) :
    (enterReady s).mif = { s.mif with indexState := .ready } ∧
    (enterReady s).swp = { s.swp with cursor := 0, allowance := 0 } ∧
    (enterReady s).stu = { s.stu with timer := if s.params.statsMode = .interval then some 0 else none } ∧
    (enterReady s).ixc =
      { s.ixc with occupancyHigh := decide (s.params.occupancyPct * capacity s ≤ s.ixc.occupancy * 100) } ∧
    (enterReady s).ctu =
      { s.ctu with containersLow := decide (s.ctu.freeList.length < s.params.containersLowCount) } ∧
    (enterReady s).params = s.params ∧ (enterReady s).nst = s.nst ∧ (enterReady s).tmb = s.tmb ∧
    (enterReady s).clu = s.clu ∧ (enterReady s).bte = s.bte := by
  rw [enterReady_eq]
  have hcapacity : capacity (readied s) = capacity s := rfl
  simp [readied, occupancyCondition, containersLowCondition, ← hcapacity]

/-! ## Header and settings (R149, R173, R175) -/

/-- What becomes of map and flag where admission is evaluated. -/
theorem evalAdmission_settings (q p : Port) (s : State) :
    (portUnit (evalAdmission q s) p).nsMap = (portUnit s p).nsMap ∧
      (portUnit (evalAdmission q s) p).autoAdmit = (portUnit s p).autoAdmit := by
  rw [portUnit_evalAdmission]
  split
  · split
    · next h => rw [h]; exact ⟨rfl, rfl⟩
    · exact ⟨(unitRaise_notices _ _).nsMap, (unitRaise_notices _ _).autoAdmit⟩
  · exact ⟨rfl, rfl⟩

theorem evalAdmissions_settings (p : Port) (s : State) :
    (portUnit (evalAdmissions s) p).nsMap = (portUnit s p).nsMap ∧
      (portUnit (evalAdmissions s) p).autoAdmit = (portUnit s p).autoAdmit := by
  simp [evalAdmissions, allPorts, evalAdmission_settings]

/-- The settings loaded are those at every port unit (R175). -/
theorem loadSettings_settings (v : Settings) (s : State) (p : Port) :
    (portUnit (loadSettings v s) p).nsMap = (fourGet v.ports p).nsMap ∧
      (portUnit (loadSettings v s) p).autoAdmit = (fourGet v.ports p).autoAdmit := by
  unfold loadSettings
  rw [portUnit_updPorts]
  exact ⟨rfl, rfl⟩

/-- Index memory after recovery's first three steps. -/
def recoveredHeader (m : IndexMemory) : IndexMemory := recoverSettings (recoverClock (recoverStartCount m))

/-- What recovery's first three steps leave of each block. -/
theorem recoverHeader_blocks (s : State) :
    (recoverHeader s).mem = recoveredHeader s.mem ∧
    (recoverHeader s).mif =
      { s.mif with
        startCount := s.mem.header.startCount + 1#16,
        settingsDefaulted := !settingsHold (recoverClock (recoverStartCount s.mem)) } ∧
    (recoverHeader s).tmb =
      { s.tmb with clock := resumedClock s.mem.header.clock, clockLoaded := true, secondMs := 0 } ∧
    (recoverHeader s).params = (recoveredHeader s.mem).settings.params ∧
    (recoverHeader s).nst = (recoveredHeader s.mem).settings.namespaces ∧ (recoverHeader s).clu = s.clu ∧
    (recoverHeader s).bte = s.bte := by
  unfold recoverHeader
  simp [loadSettings, recoveredHeader]

theorem recoverHeader_settings (s : State) (p : Port) :
    (portUnit (recoverHeader s) p).nsMap = (fourGet (recoveredHeader s.mem).settings.ports p).nsMap ∧
      (portUnit (recoverHeader s) p).autoAdmit = (fourGet (recoveredHeader s.mem).settings.ports p).autoAdmit := by
  unfold recoverHeader
  simp only [evalAdmissions_settings, loadSettings_settings]
  exact ⟨rfl, rfl⟩

theorem recoveredHeader_hold {m : IndexMemory} (h : m.settingsCheck = settingsCheckOf m.settings) :
    recoveredHeader m = recoverClock (recoverStartCount m) := recoverSettings_hold h

theorem recoveredHeader_fail {m : IndexMemory} (h : m.settingsCheck ≠ settingsCheckOf m.settings) :
    recoveredHeader m = memSettings defaultSettings (recoverClock (recoverStartCount m)) := recoverSettings_fail h

/-- The header, slots and containers that recovery's first three steps leave (R93, R175). -/
theorem recoveredHeader_fields (m : IndexMemory) :
    (recoveredHeader m).header = (recoverClock (recoverStartCount m)).header ∧
      (recoveredHeader m).slots = m.slots ∧ (recoveredHeader m).containers = m.containers ∧
      (recoveredHeader m).containersCheck = m.containersCheck := by
  simp [recoveredHeader]

/-! ## Slots and containers (R11, R89, R175) -/

/-- Index memory after recovery's slot walk. -/
def recoveredSlots (ds : Four Descriptor) (m : IndexMemory) : IndexMemory := recoverSlots ds none (recoveredHeader m)

/-- Recovery's last three steps begin: SUSPECT_FOUND is raised where the walk writes a slot SUSPECT (R175). -/
def suspectsRaised (s : State) : State :=
  if walkFinds s.mif.descriptors s.mem = true then
    raiseAll .suspectFound { s with mif := { s.mif with containerRebuilt := !areaHolds s.mem } }
  else { s with mif := { s.mif with containerRebuilt := !areaHolds s.mem } }

theorem recoverIndex_eq (s : State) :
    recoverIndex s =
      rebuildCtu { suspectsRaised s with
        mem := recoverArea s.mif.descriptors (recoverSlots s.mif.descriptors none (suspectsRaised s).mem),
        ixc := { (suspectsRaised s).ixc with
          occupancy := occupancyOf s.mif.descriptors (recoverSlots s.mif.descriptors none (suspectsRaised s).mem) } } := rfl

theorem suspectsRaised_blocks (s : State) :
    (suspectsRaised s).mem = s.mem ∧
    (suspectsRaised s).mif = { s.mif with containerRebuilt := !areaHolds s.mem } ∧
    (suspectsRaised s).ixc = s.ixc ∧ (suspectsRaised s).ctu = s.ctu ∧ (suspectsRaised s).params = s.params ∧
    (suspectsRaised s).nst = s.nst ∧ (suspectsRaised s).tmb = s.tmb ∧ (suspectsRaised s).swp = s.swp ∧
    (suspectsRaised s).stu = s.stu ∧ (suspectsRaised s).clu = s.clu ∧ (suspectsRaised s).bte = s.bte := by
  unfold suspectsRaised
  split <;> simp

theorem suspectsRaised_notices (s : State) : NoticesOnly (suspectsRaised s) s := by
  unfold suspectsRaised
  split
  · exact (raiseAll_notices _ _).trans (.of_ports rfl)
  · exact .of_ports rfl

/-- What recovery's last three steps leave of each block. -/
theorem recoverIndex_blocks (s : State) :
    (recoverIndex s).mem = recoverArea s.mif.descriptors (recoverSlots s.mif.descriptors none s.mem) ∧
    (recoverIndex s).mif = { s.mif with containerRebuilt := !areaHolds s.mem } ∧
    (recoverIndex s).ixc =
      { s.ixc with occupancy := occupancyOf s.mif.descriptors (recoverSlots s.mif.descriptors none s.mem) } ∧
    (recoverIndex s).ctu =
      { s.ctu with freeList := freeContainers (recoverIndex s).mem.containers, openCount := ⟨0, 0, 0, 0⟩ } ∧
    (recoverIndex s).params = s.params ∧ (recoverIndex s).nst = s.nst ∧ (recoverIndex s).tmb = s.tmb ∧
    (recoverIndex s).clu = s.clu ∧ (recoverIndex s).bte = s.bte := by
  obtain ⟨hmem, hmif, hixc, hctu, hparams, hnst, htmb, -, -, hclu, hbte⟩ := suspectsRaised_blocks s
  rw [recoverIndex_eq]
  simp [rebuildCtu, hmem, hmif, hixc, hctu, hparams, hnst, htmb, hclu, hbte]

theorem recoverIndex_notices (s : State) : NoticesOnly (recoverIndex s) s :=
  NoticesOnly.trans (.of_ports rfl) (suspectsRaised_notices s)

/-! ## The whole recovery -/

theorem exec_recovery {s : State} (hpow : s.powered = true) (hstate : s.mif.indexState = .recovering)
    (hrestart : s.mif.restartTaken = false) : exec .recovery s = .next (recover s) := by
  refine congrArg _ ((if_pos hpow).trans (doWhen_of _ _ ?_))
  simp [mayRecover, hstate, hrestart]

/-- Index memory after recovery. -/
theorem recover_mem_eq (s : State) :
    (recover s).mem = recoverArea s.mif.descriptors (recoveredSlots s.mif.descriptors s.mem) := recover_mem s

theorem recover_notices (s : State) : NoticesOnly (recover s) (recoverHeader s) :=
  (enterReady_notices _).trans (recoverIndex_notices _)

/-- Settles O17: the header and settings that recovery loads, and what becoming READY does. -/
theorem recoveryLoadsHeaderAndSettings : Obligations.RecoveryLoadsHeaderAndSettings := by
  intro s hpow hstate hrestart
  obtain ⟨hmif, hswp, hstu, hixc, hctu, hparams, hnst, htmb, hclu, hbte⟩ := enterReady_blocks (recoverIndex (recoverHeader s))
  obtain ⟨-, hmif1, hixc1, -, hparams1, hnst1, htmb1, hclu1, hbte1⟩ := recoverIndex_blocks (recoverHeader s)
  obtain ⟨-, hmif0, htmb0, hparams0, hnst0, hclu0, hbte0⟩ := recoverHeader_blocks s
  have hheader : (recover s).mem.header = (recoverClock (recoverStartCount s.mem)).header := by
    rw [recover_mem_eq]
    simp [recoveredSlots, recoveredHeader]
  have hsettings : (recover s).mem.settings = (recoveredHeader s.mem).settings ∧
      (recover s).mem.settingsCheck = (recoveredHeader s.mem).settingsCheck := by
    rw [recover_mem_eq]
    simp [recoveredSlots]
  have hcapacity : capacity (recoverIndex (recoverHeader s)) = capacity s := by
    unfold capacity
    rw [hmif1, hmif0]
  have hrecover : recover s = enterReady (recoverIndex (recoverHeader s)) := rfl
  have hunits : ∀ p, (portUnit (recover s) p).nsMap = (fourGet (recoveredHeader s.mem).settings.ports p).nsMap ∧
      (portUnit (recover s) p).autoAdmit = (fourGet (recoveredHeader s.mem).settings.ports p).autoAdmit := fun p => by
    rw [(recover_notices s p).nsMap, (recover_notices s p).autoAdmit]
    exact recoverHeader_settings s p
  rw [← hrecover] at hmif hswp hstu hixc hctu hparams hnst htmb hclu hbte
  rw [hparams1, hparams0] at hparams
  rw [hnst1, hnst0] at hnst
  rw [htmb1, htmb0] at htmb
  have hflag : (recover s).mif.settingsDefaulted = !settingsHold (recoverClock (recoverStartCount s.mem)) := by
    rw [hmif, hmif1, hmif0]
  refine ⟨recover s, exec_recovery hpow hstate hrestart, by rw [hmif], by rw [hmif, hmif1, hmif0], ?_, by rw [htmb],
    by rw [hheader]; rfl, by rw [hheader, htmb]; rfl, by rw [hheader]; rfl, by rw [hheader]; rfl,
    by rw [hheader]; exact headerFresh_check _, fun hhold => ?_, fun hfail => ?_, by rw [hswp], by rw [hswp], ?_, ?_, ?_,
    fun p hp => hasEvent_enterReady hp, ?_, ?_⟩
  · rw [htmb]
    exact resumedClock_toNat _
  · have hkept := recoveredHeader_hold hhold
    rw [hkept] at hparams hnst hsettings
    refine ⟨hparams, hnst, fun p => ?_, hsettings.1, ?_⟩
    · have hunit := hunits p
      rw [hkept] at hunit
      exact hunit
    · rw [hflag]
      simp [settingsHold, hhold]
  · have hdefaults := recoveredHeader_fail hfail
    rw [hdefaults] at hparams hnst hsettings
    refine ⟨hparams, hnst, fun p => ?_, by rw [hsettings.1]; rfl, by rw [hsettings.1]; rfl, ?_, ?_⟩
    · have hunit := hunits p
      rw [hdefaults] at hunit
      cases p <;> exact hunit
    · rw [hsettings.1, hsettings.2]
      rfl
    · rw [hflag]
      simp [settingsHold, hfail]
  · rw [hstu, hparams, hparams1, hparams0]
  · rw [hixc, hparams, hparams1, hparams0, hcapacity]
  · rw [hctu, hparams, hparams1, hparams0]
  · rw [hclu, hclu1, hclu0]
  · rw [hbte, hbte1, hbte0]

theorem walked_none (ds : Four Descriptor) (k : Nat) : walked ds none k = (slotNumber ds k).isSome := by
  unfold walked
  cases slotNumber ds k <;> rfl

/-- Settles O18: the walk slot by slot, the occupancy counted, and the notice where the walk wrote a slot SUSPECT. -/
theorem recoveryWalksTheSlots : Obligations.RecoveryWalksTheSlots := by
  intro s hpow hstate hrestart hwf
  have hslots : (recover s).mem.slots = (recoveredSlots s.mif.descriptors s.mem).slots := by
    rw [recover_mem_eq]
    simp
  obtain ⟨-, hslots0, -, -⟩ := recoveredHeader_fields s.mem
  have hget : ∀ k, tableGet SlotImage.free (recover s).mem.slots k =
      if walked s.mif.descriptors none k = true then walkImage (tableGet SlotImage.free s.mem.slots k)
      else tableGet SlotImage.free s.mem.slots k := fun k => by
    have hheader : (recoveredHeader s.mem).wf = true :=
      recoverSettings_wf (recoverClock_wf (recoverStartCount_wf hwf))
    rw [hslots, recoveredSlots, recoverSlots_get _ _ _ hheader, hslots0]
  obtain ⟨-, -, -, hixc, -⟩ := enterReady_blocks (recoverIndex (recoverHeader s))
  obtain ⟨-, -, hixc1, -⟩ := recoverIndex_blocks (recoverHeader s)
  obtain ⟨hmem0, hmif0, -⟩ := recoverHeader_blocks s
  refine ⟨recover s, exec_recovery hpow hstate hrestart, fun k hk => ?_, fun k hk => ?_, ?_, fun hsuspect p hp => ?_⟩
  · rw [hget, walked_none, if_pos hk]
    rfl
  · rw [hget, walked_none, hk]
    rfl
  · have hoccupancy : (recover s).ixc.occupancy =
        occupancyOf s.mif.descriptors (recoveredSlots s.mif.descriptors s.mem) := by
      unfold recover
      rw [hixc, hixc1, hmem0, hmif0]
      rfl
    rw [hoccupancy, hslots]
    rfl
  · have hfinds : walkFinds (recoverHeader s).mif.descriptors (recoverHeader s).mem = true := by
      obtain ⟨x, hx, hnumber, hstate⟩ := hsuspect
      rw [hmem0, hmif0, walkFinds, hslots0, List.any_eq_true]
      exact ⟨x, hx, by rw [walked_none, hnumber, hstate]; rfl⟩
    have hgrows : EventsGrow (recover s) (suspectsRaised (recoverHeader s)) :=
      (enterReady_grows _).trans fun q => ⟨rfl, fun k hk => hk⟩
    obtain ⟨hsame, hkeeps⟩ := hgrows p
    refine hkeeps _ ?_
    rw [hsame] at hp
    unfold suspectsRaised at hp ⊢
    rw [if_pos hfinds] at hp ⊢
    exact hasEvent_raiseAll _ hp

/-! ## Containers (R71, R72, R89, R175, R179) -/

/-- A table made by numbering upward holds what it was made of. -/
theorem tableGet_ofRange {α : Type} [DecidableEq α] (d : α) (g : Nat → α) (n k : Nat) :
    tableGet d ((List.range n).filterMap (fun c => if g c = d then none else some (c, g c))) k =
      if k < n then g k else d := by
  induction n with
  | zero => rfl
  | succ n ih =>
    rw [List.range_succ, List.filterMap_append]
    by_cases hk : k = n
    · subst hk
      rw [tableGet_append_left, if_pos (Nat.lt_succ_self k)]
      · by_cases hd : g k = d <;> simp [hd, tableGet]
      · intro e he
        obtain ⟨c, hc, hsome⟩ := List.mem_filterMap.mp he
        split at hsome
        · exact nomatch hsome
        · cases hsome
          exact Nat.ne_of_lt (List.mem_range.mp hc)
    · rw [tableGet_append_right, ih]
      · exact if_congr (by omega) rfl rfl
      · intro e he
        obtain ⟨c, hc, hsome⟩ := List.mem_filterMap.mp he
        split at hsome
        · exact nomatch hsome
        · cases hsome
          rw [List.mem_singleton.mp hc]
          exact Ne.symm hk

/-- The container records that recovery rebuilds (R89). -/
theorem recoverContainers_get (ds : Four Descriptor) (slots : List (Nat × SlotImage)) (t : List (Nat × ContainerRec))
    {c : Nat} (h : c < Config.containerRecords) :
    tableGet ContainerRec.zero (recoverContainers ds slots t) c =
      recoverContainer (tableGet ContainerRec.zero t c)
        ((countedLocations ds slots).filter (fun l => decide (l.container.toNat = c))) := by
  unfold recoverContainers
  exact (tableGet_ofRange ContainerRec.zero (fun c => recoverContainer (tableGet ContainerRec.zero t c)
    ((countedLocations ds slots).filter (fun l => decide (l.container.toNat = c)))) _ c).trans (if_pos h)

/-- A container's record after recovery, by whether it is FREE with nothing counted in it (R89). -/
theorem recoverContainer_eq (r : ContainerRec) (ls : List Location) :
    (r.state = .free → ls = [] → (recoverContainer r ls).state = .free ∧ (recoverContainer r ls).fill = 0) ∧
    (r.state ≠ .free ∨ ls ≠ [] →
      (recoverContainer r ls).state = .closed ∧
      (recoverContainer r ls).fill =
        max r.fill (min Config.containerBytes ((ls.map locationEnd).foldl max 0))) := by
  refine ⟨fun hfree hnone => ?_, fun hclosed => ?_⟩
  · have hopen : ¬ (r.state ≠ .free ∨ ls ≠ []) := fun h => h.elim (fun h => h hfree) fun h => h hnone
    exact ⟨if_neg hopen, if_neg hopen⟩
  · exact ⟨if_pos hclosed, if_pos hclosed⟩

/-- The container records that recovery reads, at one number (R175). -/
theorem readContainers_get (m : IndexMemory) (c : Nat) :
    tableGet ContainerRec.zero (readContainers m) c =
      if m.containersCheck = areaCheck m.containers then tableGet ContainerRec.zero m.containers c
      else ContainerRec.zero := by
  unfold readContainers areaHolds
  by_cases h : m.containersCheck = areaCheck m.containers
  · simp [h]
  · simp only [decide_eq_true_eq, if_neg h]
    rfl

theorem freeContainers_eq (t : List (Nat × ContainerRec)) :
    freeContainers t =
      (List.range 65536).filter (fun c => decide ((tableGet ContainerRec.zero t c).state = .free)) := by
  unfold freeContainers Config.containerRecords
  rfl

/-- Settles O19: each container from the counted entries located in it, the free list and the open counts. -/
theorem recoveryRebuildsContainers : Obligations.RecoveryRebuildsContainers := by
  intro s hpow hstate hrestart hwf
  obtain ⟨hmif, -, -, -, hctu, -⟩ := enterReady_blocks (recoverIndex (recoverHeader s))
  obtain ⟨hmem1, hmif1, -, hctu1, -⟩ := recoverIndex_blocks (recoverHeader s)
  obtain ⟨hmem0, hmif0, -⟩ := recoverHeader_blocks s
  obtain ⟨-, -, hcontainers0, hcheck0⟩ := recoveredHeader_fields s.mem
  have hread : readContainers (recoveredSlots s.mif.descriptors s.mem) = readContainers s.mem := by
    unfold readContainers areaHolds recoveredSlots
    simp [hcontainers0, hcheck0]
  have hmem := recover_mem_eq s
  have harea : (recover s).mem.containers = recoverContainers s.mif.descriptors (recover s).mem.slots
      (readContainers s.mem) := by
    rw [hmem]
    simp [recoverArea, hread]
  have hsame : (recoverIndex (recoverHeader s)).mem = (recover s).mem := by simp [recover]
  refine ⟨recover s, exec_recovery hpow hstate hrestart, fun c hc => ?_, ?_, ?_, fun p => ?_, ?_⟩
  · intro stored here r
    have hr : r = recoverContainer stored here := by
      simp only [r, containerGet, harea]
      rw [recoverContainers_get _ _ _ hc, readContainers_get]
      rfl
    obtain ⟨hfree, hclosed⟩ := recoverContainer_eq stored here
    rw [hr]
    exact ⟨rfl, rfl, rfl, hfree, hclosed⟩
  · rw [hmem]
    simp [recoverArea]
  · unfold recover
    rw [hctu, hctu1]
    unfold containerGet
    rw [enterReady_mem]
    exact freeContainers_eq _
  · unfold recover
    rw [hctu, hctu1]
    cases p <;> rfl
  · unfold recover
    rw [hmif, hmif1, hmem0, areaHolds, hcontainers0, hcheck0]
    exact (decide_not).symm

end Sys2Proof.Machine
end

section
/-! FORMAT: its tests, its taking and its walk (R11, R12, R19, R21, R86, R90, R92, R95, R128, R139, R160, R163, R166,
R167, R173, R174, R176, R178, R179). -/

namespace Sys2Proof.Machine

/-! ## The events that READY raises (R166, R167, R174) -/

theorem ite_or_self (c : Prop) [Decidable c] (v x : BitVec 13) :
    (if c then v ||| x else v) = v ||| (if c then x else 0#13) := by
  split
  · rfl
  · rw [BitVec.or_zero]

theorem evalOccupancy_events {s : State} {p : Port} (h : (portUnit s p).state ≠ .down) :
    (portUnit (evalOccupancy s) p).events = (portUnit s p).events |||
      (if occupancyCondition s ≠ s.ixc.occupancyHigh ∧
          (occupancyCondition s = true ∨ (portUnit s p).occEdge = .both)
        then BitVec.twoPow 13 5 else 0#13) := by
  rw [portUnit_evalOccupancy, ← ite_or_self]
  by_cases hsame : occupancyCondition s = s.ixc.occupancyHigh
  · rw [if_pos hsame, if_neg fun hc => hc.1 hsame]
  · rw [if_neg hsame, unitSignalOccupancy_events]
    exact if_congr (by simp [h, hsame]) rfl rfl

theorem evalContainersLow_events {s : State} {p : Port} (h : (portUnit s p).state ≠ .down) :
    (portUnit (evalContainersLow s) p).events = (portUnit s p).events |||
      (if containersLowCondition s ≠ s.ctu.containersLow ∧
          (containersLowCondition s = true ∨ (portUnit s p).lowEdge = .both)
        then BitVec.twoPow 13 6 else 0#13) := by
  rw [portUnit_evalContainersLow, ← ite_or_self]
  by_cases hsame : containersLowCondition s = s.ctu.containersLow
  · rw [if_pos hsame, if_neg fun hc => hc.1 hsame]
  · rw [if_neg hsame, unitSignalLow_events]
    exact if_congr (by simp [h, hsame]) rfl rfl

theorem raiseAll_events (k : EventKind) (s : State) (p : Port) :
    (portUnit (raiseAll k s) p).events =
      if (portUnit s p).state = .down then (portUnit s p).events
      else (portUnit s p).events ||| BitVec.twoPow 13 (eventCode k) := by
  have hunit : portUnit (raiseAll k s) p = unitRaise k (portUnit s p) := portUnit_updPorts _ s p
  rw [hunit, unitRaise_events]

/-- The event set of a DOWN port stays as it is (R147, R166). -/
theorem enterReady_events_down {s : State} {p : Port} (h : (portUnit s p).state = .down) :
    (portUnit (enterReady s) p).events = (portUnit s p).events := by
  have hocc : (portUnit (evalOccupancy (readied s)) p).events = (portUnit s p).events := by
    rw [portUnit_evalOccupancy]
    split
    · rfl
    · rw [unitSignalOccupancy_events]
      exact if_neg fun hc => hc.1 h
  have hstate : (portUnit (evalOccupancy (readied s)) p).state = .down :=
    ((evalOccupancy_notices (readied s)) p).state.trans h
  have hlow : (portUnit (evalContainersLow (evalOccupancy (readied s))) p).events = (portUnit s p).events := by
    rw [portUnit_evalContainersLow]
    split
    · exact hocc
    · rw [unitSignalLow_events, if_neg fun hc => hc.1 hstate, hocc]
  rw [enterReady_eq, raiseAll_events, if_pos (((evalContainersLow_notices _) p).state.trans hstate), hlow]

/-- What READY raises at a port that is not DOWN: INDEX_READY, and each level condition that changes (R12, R86, R167,
R174). -/
theorem enterReady_events {s : State} {p : Port} (h : (portUnit s p).state ≠ .down) :
    (portUnit (enterReady s) p).events = (portUnit s p).events ||| BitVec.twoPow 13 10 |||
      (if occupancyCondition (readied s) ≠ s.ixc.occupancyHigh ∧
          (occupancyCondition (readied s) = true ∨ (portUnit s p).occEdge = .both)
        then BitVec.twoPow 13 5 else 0#13) |||
      (if containersLowCondition (readied s) ≠ s.ctu.containersLow ∧
          (containersLowCondition (readied s) = true ∨ (portUnit s p).lowEdge = .both)
        then BitVec.twoPow 13 6 else 0#13) := by
  have hready : (portUnit (readied s) p).state ≠ .down := h
  have hnotices := (evalOccupancy_notices (readied s)) p
  have hocc : (portUnit (evalOccupancy (readied s)) p).state ≠ .down := by
    rw [hnotices.state]
    exact h
  have hlow : (portUnit (evalContainersLow (evalOccupancy (readied s))) p).state ≠ .down := by
    rw [((evalContainersLow_notices _) p).state]
    exact hocc
  have hcondition : containersLowCondition (evalOccupancy (readied s)) = containersLowCondition (readied s) := by
    simp [containersLowCondition]
  have hbefore : (evalOccupancy (readied s)).ctu.containersLow = s.ctu.containersLow := by
    simp [readied]
  rw [enterReady_eq, raiseAll_events, if_neg hlow, evalContainersLow_events hocc, evalOccupancy_events hready, hcondition,
    hbefore, hnotices.lowEdge]
  have hunit : portUnit (readied s) p = portUnit s p := rfl
  have hixc : (readied s).ixc = s.ixc := rfl
  rw [hunit, hixc]
  ac_rfl

/-! ## The FORMAT walk's end (R11, R90, R92, R95, R128, R139, R176, R178, R179) -/

/-- An answer changes a port unit by its queue and responses alone (R143). -/
theorem answer_unit (p : Port) (tag : Tag) (mark : Session) (a : Answer) (s : State) (q : Port) :
    ∃ queue responses, portUnit (answer p tag mark a s) q =
      { portUnit s q with queue := queue, responses := responses } := by
  by_cases hq : q = p
  · subst hq
    unfold answer
    split
    · exact ⟨_, _, rfl⟩
    · split
      · exact ⟨_, _, rfl⟩
      · split
        · exact ⟨_, _, portUnit_updPort_same _ _ _⟩
        · exact ⟨_, _, portUnit_updPort_same _ _ _⟩
  · exact ⟨_, _, answer_other hq tag mark a⟩

/-- Index memory after the FORMAT walk. -/
def formattedMem (ds : Four Descriptor) (startCount : BitVec 16) (m : IndexMemory) : IndexMemory :=
  formatHeader ds startCount (formatSettings (formatArea (formatSlots ds none m)))

/-- What the FORMAT walk leaves of each block before the index becomes READY. -/
theorem formatBlocks_blocks (n : BitVec 16) (s : State) :
    (formatBlocks n s).mem = formattedMem s.mif.descriptors n s.mem ∧
    (formatBlocks n s).mif =
      { s.mif with startCount := n, settingsDefaulted := false, containerRebuilt := false, formatJob := none } ∧
    (formatBlocks n s).ixc = { s.ixc with occupancy := 0 } ∧
    (formatBlocks n s).swp = { cursor := 0, passCount := 0#32, allowance := 0 } ∧
    (formatBlocks n s).tmb = { s.tmb with clock := 0#40, clockLoaded := true, secondMs := 0 } ∧
    (formatBlocks n s).ctu = { s.ctu with freeList := freeContainers [], openCount := ⟨0, 0, 0, 0⟩ } ∧
    (formatBlocks n s).params = Params.defaults ∧ (formatBlocks n s).nst = [] ∧ (formatBlocks n s).stu = s.stu ∧
    (formatBlocks n s).clu = s.clu ∧ (formatBlocks n s).bte = s.bte := ⟨rfl, rfl, rfl, rfl, rfl, rfl, rfl, rfl, rfl, rfl, rfl⟩

theorem formatBlocks_unit (n : BitVec 16) (s : State) (p : Port) :
    portUnit (formatBlocks n s) p = { portUnit s p with nsMap := 0#64, autoAdmit := false } := by
  cases p <;> rfl

theorem formattedMem_header (ds : Four Descriptor) (n : BitVec 16) (m : IndexMemory) :
    (formattedMem ds n m).header =
      headerFresh
        { mark := Config.formatMark, capacity := BitVec.ofNat 32 (capacityOf ds), startCount := n, clock := 0#40,
          check := 0#16 } := rfl

theorem formattedMem_slots (ds : Four Descriptor) (n : BitVec 16) (m : IndexMemory) (k : Nat) :
    tableGet SlotImage.free (formattedMem ds n m).slots k =
      if (slotNumber ds k).isSome = true then SlotImage.free else tableGet SlotImage.free m.slots k := by
  have hslots : (formattedMem ds n m).slots = (formatSlots ds none m).slots := rfl
  rw [hslots, formatSlots_get, walked_none]

/-- Every container is FREE in an empty table (R71). -/
theorem freeContainers_nil : freeContainers [] = List.range 65536 := by
  rw [freeContainers_eq]
  exact List.filter_eq_self.mpr fun c _ => rfl

theorem exec_formatWalk {s : State} {j : FormatJob} (hpow : s.powered = true) (hjob : s.mif.formatJob = some j)
    (hstate : s.mif.indexState = .formatting) (hrestart : s.mif.restartTaken = false) (hchanges : s.mif.changes = []) :
    exec .formatWalk s = .next (formatWalk j s) := by
  refine congrArg _ ((if_pos hpow).trans ?_)
  simp only [hjob]
  exact doWhen_of _ _ (by simp [hstate, hrestart, hchanges])

theorem exec_formatWalk_waits {s : State} (h : s.mif.changes ≠ []) : exec .formatWalk s = .next s := by
  refine congrArg Host.Outcome.next ?_
  unfold whenPowered
  split
  · cases hjob : s.mif.formatJob with
    | none => simp only [hjob]
    | some j =>
      simp only [hjob]
      exact doWhen_of_not _ _ (by simp [h])
  · rfl

/-- The state that the FORMAT walk makes READY, before FORMAT is answered (R174, R176). -/
def formatReady (n : BitVec 16) (s : State) : State := enterReady (formatBlocks n s)

theorem formatWalk_eq (j : FormatJob) (s : State) :
    formatWalk j s = answer j.port j.tag j.mark (.done .none) (formatReady j.startCount s) := rfl

/-- What the FORMAT walk leaves of each block. -/
theorem formatWalk_blocks (j : FormatJob) (s : State) :
    (formatWalk j s).mem = formattedMem s.mif.descriptors j.startCount s.mem ∧
    (formatWalk j s).mif =
      { s.mif with
        startCount := j.startCount, settingsDefaulted := false, containerRebuilt := false, formatJob := none,
        indexState := .ready } ∧
    (formatWalk j s).ixc.occupancy = 0 ∧ (formatWalk j s).ixc.lastServed = s.ixc.lastServed ∧
    (formatWalk j s).swp = { cursor := 0, passCount := 0#32, allowance := 0 } ∧
    (formatWalk j s).tmb = { s.tmb with clock := 0#40, clockLoaded := true, secondMs := 0 } ∧
    (formatWalk j s).ctu.freeList = List.range 65536 ∧ (formatWalk j s).ctu.openCount = ⟨0, 0, 0, 0⟩ ∧
    (formatWalk j s).ctu.containersLow = false ∧
    (formatWalk j s).params = Params.defaults ∧ (formatWalk j s).nst = [] ∧
    (formatWalk j s).stu = { s.stu with timer := some 0 } ∧ (formatWalk j s).clu = s.clu ∧
    (formatWalk j s).bte = s.bte := by
  obtain ⟨hmem, hmif, hixc, hswp, htmb, hctu, hparams, hnst, hstu, hclu, hbte⟩ := formatBlocks_blocks j.startCount s
  obtain ⟨hmif1, hswp1, hstu1, hixc1, hctu1, hparams1, hnst1, htmb1, hclu1, hbte1⟩ :=
    enterReady_blocks (formatBlocks j.startCount s)
  obtain ⟨-, -, hixc2, hclu2, hctu2, hbte2, hswp2, htmb2, hnst2, hstu2, hmif2, hparams2, hmem2, -⟩ :=
    answer_frame j.port j.tag j.mark (.done .none) (enterReady (formatBlocks j.startCount s))
  have hlow : decide ((freeContainers []).length < Params.defaults.containersLowCount) = false := by
    rw [freeContainers_nil, List.length_range]
    rfl
  refine ⟨hmem2.trans ((enterReady_mem _).trans hmem), hmif2.trans ?_, ?_, ?_, hswp2.trans ?_,
    htmb2.trans (htmb1.trans htmb), ?_, ?_, ?_, hparams2.trans (hparams1.trans hparams), hnst2.trans (hnst1.trans hnst),
    hstu2.trans ?_, hclu2.trans (hclu1.trans hclu), hbte2.trans (hbte1.trans hbte)⟩
  · rw [hmif1, hmif]
  · rw [formatWalk_eq, formatReady, hixc2, hixc1, hixc]
  · rw [formatWalk_eq, formatReady, hixc2, hixc1, hixc]
  · rw [hswp1, hswp]
  · rw [formatWalk_eq, formatReady, hctu2, hctu1, hctu, freeContainers_nil]
  · rw [formatWalk_eq, formatReady, hctu2, hctu1, hctu]
  · rw [formatWalk_eq, formatReady, hctu2, hctu1, hctu, hparams]
    exact hlow
  · rw [hstu1, hstu, hparams]
    rfl

/-- What the FORMAT walk leaves of a port unit, queue, responses and notices apart. -/
theorem formatWalk_unit (j : FormatJob) (s : State) (p : Port) :
    (portUnit (formatWalk j s) p).state = (portUnit s p).state ∧
    (portUnit (formatWalk j s) p).mask = (portUnit s p).mask ∧
    (portUnit (formatWalk j s) p).occEdge = (portUnit s p).occEdge ∧
    (portUnit (formatWalk j s) p).lowEdge = (portUnit s p).lowEdge ∧
    (portUnit (formatWalk j s) p).suppression = (portUnit s p).suppression ∧
    (portUnit (formatWalk j s) p).session = (portUnit s p).session ∧
    (portUnit (formatWalk j s) p).nsMap = 0#64 ∧ (portUnit (formatWalk j s) p).autoAdmit = false ∧
    (portUnit (formatWalk j s) p).events = (portUnit (formatReady j.startCount s) p).events := by
  obtain ⟨queue, responses, hanswer⟩ :=
    answer_unit j.port j.tag j.mark (.done .none) (formatReady j.startCount s) p
  have hnotices := enterReady_notices (formatBlocks j.startCount s) p
  rw [formatBlocks_unit] at hnotices
  rw [formatWalk_eq, hanswer]
  exact ⟨hnotices.state, hnotices.mask, hnotices.occEdge, hnotices.lowEdge, hnotices.suppression, hnotices.session,
    hnotices.nsMap, hnotices.autoAdmit, rfl⟩

/-- After the FORMAT walk OCCUPANCY_HIGH holds where no slot is fitted, and CONTAINERS_LOW does not hold (R12, R86). -/
theorem formatBlocks_conditions (n : BitVec 16) (s : State) :
    occupancyCondition (readied (formatBlocks n s)) = decide (capacity s = 0) ∧
      containersLowCondition (readied (formatBlocks n s)) = false := by
  refine ⟨?_, ?_⟩
  · have hcondition : occupancyCondition (readied (formatBlocks n s)) = decide (90 * capacity s ≤ 0 * 100) := rfl
    rw [hcondition]
    exact decide_eq_decide.mpr (by omega)
  · have hcondition : containersLowCondition (readied (formatBlocks n s)) =
        decide ((freeContainers []).length < 256) := rfl
    rw [hcondition, freeContainers_nil, List.length_range]
    rfl

theorem formatReady_events {s : State} {p : Port} (n : BitVec 16) (h : (portUnit s p).state ≠ .down) :
    (portUnit (formatReady n s) p).events = (portUnit s p).events ||| BitVec.twoPow 13 10 |||
      (if decide (capacity s = 0) ≠ s.ixc.occupancyHigh ∧
          (decide (capacity s = 0) = true ∨ (portUnit s p).occEdge = .both)
        then BitVec.twoPow 13 5 else 0#13) |||
      (if s.ctu.containersLow = true ∧ (portUnit s p).lowEdge = .both then BitVec.twoPow 13 6 else 0#13) := by
  obtain ⟨hhigh, hlow⟩ := formatBlocks_conditions n s
  have hstate : (portUnit (formatBlocks n s) p).state ≠ .down := by
    rw [formatBlocks_unit]
    exact h
  rw [formatReady, enterReady_events hstate, hhigh, hlow, formatBlocks_unit]
  have hbefore : (formatBlocks n s).ixc.occupancyHigh = s.ixc.occupancyHigh ∧
      (formatBlocks n s).ctu.containersLow = s.ctu.containersLow := ⟨rfl, rfl⟩
  rw [hbefore.1, hbefore.2]
  refine congrArg _ (if_congr ?_ rfl rfl)
  cases s.ctu.containersLow <;> simp

theorem formatReady_events_down {s : State} {p : Port} (n : BitVec 16) (h : (portUnit s p).state = .down) :
    (portUnit (formatReady n s) p).events = (portUnit s p).events := by
  have hstate : (portUnit (formatBlocks n s) p).state = .down := by
    rw [formatBlocks_unit]
    exact h
  rw [formatReady, enterReady_events_down hstate, formatBlocks_unit]

/-- FORMAT is answered DONE where it is still queued (R143, R153, R176). -/
theorem formatWalk_answers {j : FormatJob} {s : State} {e : QEntry} (hrestart : s.mif.restartTaken = false)
    (hqueued : queued s j.port j.tag = some e) (hmark : j.mark = (portUnit s j.port).session) :
    (portUnit (formatWalk j s) j.port).responses =
        (portUnit s j.port).responses ++ [{ kind := kindCode e.kind, tag := j.tag, answer := .done .none }] ∧
      queued (formatWalk j s) j.port j.tag = none := by
  have hnotices := enterReady_notices (formatBlocks j.startCount s) j.port
  rw [formatBlocks_unit] at hnotices
  have hunit := portUnit_updPort_same (p := j.port) (s := formatReady j.startCount s)
  obtain ⟨hmif, -⟩ := enterReady_blocks (formatBlocks j.startCount s)
  have hsent := answer_sent (s := formatReady j.startCount s) (p := j.port) (tag := j.tag) (mark := j.mark) (e := e)
    (.done .none) (by unfold queued formatReady; rw [hnotices.queue]; exact hqueued)
    (by unfold formatReady; rw [hnotices.session]; exact hmark) (by unfold formatReady; rw [hmif]; exact hrestart)
  rw [formatWalk_eq, hsent, portUnit_updPort_same]
  refine ⟨by dsimp only; unfold formatReady; rw [hnotices.responses], queued_none fun x hx => ?_⟩
  rw [portUnit_updPort_same] at hx
  simpa using (List.mem_filter.mp hx).2

/-- A header written with the format mark is valid (R173). -/
theorem headerValid_fresh {h : Header} (hmark : h.mark = Config.formatMark) : headerValid (headerFresh h) = true := by
  unfold headerValid
  rw [Bool.and_eq_true, decide_eq_true_iff, decide_eq_true_iff]
  exact ⟨hmark, headerFresh_check h⟩

/-- Settles O21: a walk that waits, and each block and port unit after a walk. -/
theorem formatWalkFormatsTheIndex : Obligations.FormatWalkFormatsTheIndex := by
  refine ⟨fun s h => exec_formatWalk_waits h, fun s j hpow hjob hstate hrestart hchanges hwf =>
    ⟨formatWalk j s, exec_formatWalk hpow hjob hstate hrestart hchanges, ?_⟩⟩
  obtain ⟨hmem, hmif, hoccupancy, hserved, hswp, htmb, hfree, hopen, hlow, hparams, hnst, hstu, hclu, hbte⟩ :=
    formatWalk_blocks j s
  have hunit := formatWalk_unit j s
  have hslots := formattedMem_slots s.mif.descriptors j.startCount s.mem
  rw [hmem, hmif, hoccupancy, hserved, hswp, htmb, hfree, hopen, hlow, hparams, hnst, hstu, hclu, hbte,
    formattedMem_header]
  refine ⟨rfl, rfl, fun k hk => (hslots k).trans (if_pos hk), fun k hk => (hslots k).trans (by rw [hk]; rfl), rfl, rfl,
    rfl, rfl, fun p => by cases p <;> rfl, rfl, rfl, rfl, fun p => ?_, rfl, rfl, rfl, ?_, rfl, rfl, rfl, rfl, rfl, rfl, rfl,
    rfl, rfl, rfl, fun p => ?_, fun p => ?_, rfl, rfl, rfl, rfl, rfl, rfl,
    fun e hqueued hmark => formatWalk_answers hrestart hqueued hmark⟩
  · obtain ⟨-, -, -, -, -, -, hmap, hauto, -⟩ := hunit p
    exact ⟨hmap, hauto⟩
  · exact headerValid_fresh rfl
  · obtain ⟨hs, hmask, hocc, hlowEdge, hsuppression, hsession, -, -, -⟩ := hunit p
    exact ⟨hs, hmask, hocc, hlowEdge, hsuppression, hsession⟩
  · intro u high
    obtain ⟨-, -, -, -, -, -, -, -, hevents⟩ := hunit p
    rw [hevents]
    refine ⟨formatReady_events_down _, formatReady_events _, fun hup hcapacity hocc hcontainers => ?_⟩
    rw [formatReady_events _ hup, hocc, hcontainers]
    simp [hcapacity, u]

end Sys2Proof.Machine
end

section
/-! FORMAT tested and taken: the waiting requests refused, and the FORMAT that waits for the operation in progress (R12,
R19, R21, R86, R163, R174, R176). -/

namespace Sys2Proof.Machine

/-! ## Requests of one queue -/

theorem queued_of_mem {s : State} {p : Port} {x : QEntry} (hnodup : ((portUnit s p).queue.map (fun e => e.tag)).Nodup)
    (hx : x ∈ (portUnit s p).queue) : queued s p x.tag = some x := by
  obtain ⟨y, hy⟩ := Option.isSome_iff_exists.mp (queued_isSome ⟨x, hx, rfl⟩)
  have htag : y.tag = x.tag := by simpa using List.find?_some hy
  rw [hy, List.inj_on_of_nodup_map hnodup (List.mem_of_find?_eq_some hy) hx htag]

theorem PortsOk.tags {s : State} (h : PortsOk s) (p : Port) :
    ((portUnit s p).queue.map (fun e => e.tag)).Nodup := by
  obtain ⟨-, -, ⟨-, hnodup, -⟩, -⟩ := h p
  exact hnodup

theorem queued_tag {s : State} {p : Port} {tag : Tag} {e : QEntry} (h : queued s p tag = some e) : e.tag = tag := by
  simpa using List.find?_some h

/-- A request answered leaves the others queued. -/
theorem queued_answered_ne {p : Port} {e : QEntry} {tag : Tag} (a : Answer) (s : State) (h : tag ≠ e.tag) :
    queued (answered p e a s) p tag = queued s p tag := by
  unfold queued answered
  rw [portUnit_updPort_same, List.find?_filter]
  refine congrArg (fun f => List.find? f _) (funext fun x => ?_)
  by_cases hx : x.tag = tag
  · simp [hx, h]
  · simp [hx]

/-- A request noted as taken leaves the others as they are. -/
theorem queued_markTaken_ne {p : Port} {tag tag' : Tag} (s : State) (h : tag' ≠ tag) :
    queued (markTaken p tag s) p tag' = queued s p tag' := by
  unfold queued markTaken updEntry
  rw [portUnit_updPort_same]
  dsimp only
  induction (portUnit s p).queue with
  | nil => rfl
  | cons x rest ih =>
    by_cases hx : x.tag = tag'
    · have hne : x.tag ≠ tag := fun heq => h (hx.symm.trans heq)
      rw [List.map_cons, if_neg hne, List.find?_cons_of_pos (by simp [hx]), List.find?_cons_of_pos (by simp [hx])]
    · rw [List.map_cons, List.find?_cons_of_neg (by split <;> simp [hx]), List.find?_cons_of_neg (by simp [hx]), ih]

/-! ## Answers one behind the other (R21, R143) -/

/-- Two states differ in their port units alone. -/
def PortsAlone (t s : State) : Prop := ∃ ports, t = { s with ports := ports }

theorem PortsAlone.rfl {s : State} : PortsAlone s s := ⟨s.ports, Eq.refl _⟩

theorem PortsAlone.trans {a b c : State} (h : PortsAlone a b) (k : PortsAlone b c) : PortsAlone a c := by
  obtain ⟨ports, rfl⟩ := h
  obtain ⟨ports', rfl⟩ := k
  exact ⟨ports, Eq.refl _⟩

theorem PortsAlone.mif {t s : State} (h : PortsAlone t s) : t.mif = s.mif := by
  obtain ⟨ports, rfl⟩ := h
  exact Eq.refl _

theorem answer_portsAlone (p : Port) (tag : Tag) (mark : Session) (a : Answer) (s : State) :
    PortsAlone (answer p tag mark a s) s := by
  unfold answer
  split
  · exact .rfl
  · split
    · exact .rfl
    · split <;> exact ⟨_, rfl⟩

theorem answerEntry_portsAlone (p : Port) (e : QEntry) (a : Answer) (s : State) : PortsAlone (answerEntry p e a s) s :=
  answer_portsAlone _ _ _ _ _

/-- What an outcome leaves of its port's queue, session and responses, no RESTART taken. -/
theorem answerEntry_standing {s : State} {p : Port} (e : QEntry) (a : Answer) (hr : s.mif.restartTaken = false) :
    (portUnit (answerEntry p e a s) p).session = (portUnit s p).session ∧
    (∀ y ∈ (portUnit (answerEntry p e a s) p).queue, y ∈ (portUnit s p).queue) ∧
    (∀ r ∈ (portUnit s p).responses, r ∈ (portUnit (answerEntry p e a s) p).responses) ∧
    ∀ tag, tag ≠ e.tag → queued (answerEntry p e a s) p tag = queued s p tag := by
  by_cases h : queued s p e.tag = none ∨ e.mark ≠ (portUnit s p).session
  · rw [answerEntry, answer_dropped a h]
    exact ⟨rfl, fun y hy => hy, fun r hr => hr, fun tag htag => rfl⟩
  · obtain ⟨hsome, hmark⟩ := not_or.mp h
    obtain ⟨x, hx⟩ := Option.ne_none_iff_exists'.mp hsome
    have hanswer : answerEntry p e a s = answered p x a s := by
      rw [answerEntry, answer_sent a hx (not_not.mp hmark) hr, answered, queued_tag hx]
    rw [hanswer]
    refine ⟨?_, fun y hy => ?_, fun r hr => ?_, fun tag htag =>
      queued_answered_ne a s (by rw [queued_tag hx]; exact htag)⟩
    · rw [answered, portUnit_updPort_same]
    · rw [answered, portUnit_updPort_same] at hy
      exact List.mem_of_mem_filter hy
    · rw [answered, portUnit_updPort_same]
      exact List.mem_append_left _ hr

/-- The requests of a list answered one behind the other. -/
def answerAll (p : Port) (a : Answer) (l : List QEntry) (s : State) : State :=
  l.foldl (fun s e => answerEntry p e a s) s

theorem answerAll_portsAlone (p : Port) (a : Answer) (l : List QEntry) (s : State) :
    PortsAlone (answerAll p a l s) s := by
  induction l generalizing s with
  | nil => exact .rfl
  | cons e rest ih => exact (ih _).trans (answer_portsAlone _ _ _ _ _)

theorem answerAll_other {p q : Port} (hq : q ≠ p) (a : Answer) (l : List QEntry) (s : State) :
    portUnit (answerAll p a l s) q = portUnit s q := by
  induction l generalizing s with
  | nil => rfl
  | cons e rest ih => exact (ih _).trans (answer_other hq _ _ _)

section
variable {p : Port} (a : Answer)

theorem answerAll_keeps (l : List QEntry) {s : State} (hr : s.mif.restartTaken = false) :
    (∀ y ∈ (portUnit (answerAll p a l s) p).queue, y ∈ (portUnit s p).queue) ∧
    ∀ r ∈ (portUnit s p).responses, r ∈ (portUnit (answerAll p a l s) p).responses := by
  induction l generalizing s with
  | nil => exact ⟨fun y hy => hy, fun r hr => hr⟩
  | cons e rest ih =>
    obtain ⟨-, hqueue, hresponses, -⟩ := answerEntry_standing (p := p) e a hr
    obtain ⟨hqueue', hresponses'⟩ := ih (s := answerEntry p e a s)
      (by rw [(answerEntry_portsAlone _ _ _ _).mif]; exact hr)
    exact ⟨fun y hy => hqueue y (hqueue' y hy), fun r hr => hresponses' r (hresponses r hr)⟩

/-- A request with another tag stays queued. -/
theorem answerAll_queued {tag : Tag} (l : List QEntry) {s : State} (hr : s.mif.restartTaken = false)
    (htag : ∀ e ∈ l, tag ≠ e.tag) : queued (answerAll p a l s) p tag = queued s p tag := by
  induction l generalizing s with
  | nil => rfl
  | cons e rest ih =>
    obtain ⟨-, -, -, hqueued⟩ := answerEntry_standing (p := p) e a hr
    exact (ih (s := answerEntry p e a s) (by rw [(answerEntry_portsAlone _ _ _ _).mif]; exact hr)
      fun x hx => htag x (List.mem_cons_of_mem _ hx)).trans (hqueued tag (htag e List.mem_cons_self))

/-- Every request of the list that is queued under the port's session is answered and leaves the queue (R143). -/
theorem answerAll_answers (l : List QEntry) {s : State} (hr : s.mif.restartTaken = false)
    (hnodup : (l.map (fun e => e.tag)).Nodup) (hqueued : ∀ x ∈ l, queued s p x.tag = some x) {x : QEntry} (hx : x ∈ l)
    (hmark : x.mark = (portUnit s p).session) :
    { kind := kindCode x.kind, tag := x.tag, answer := a } ∈ (portUnit (answerAll p a l s) p).responses ∧
      ∀ y ∈ (portUnit (answerAll p a l s) p).queue, y.tag ≠ x.tag := by
  induction l generalizing s with
  | nil => exact nomatch hx
  | cons e rest ih =>
    obtain ⟨hfirst, hrest⟩ := List.nodup_cons.mp hnodup
    obtain ⟨hsession, -, -, hothers⟩ := answerEntry_standing (p := p) e a hr
    have hr' : (answerEntry p e a s).mif.restartTaken = false := by
      rw [(answerEntry_portsAlone _ _ _ _).mif]
      exact hr
    rcases List.mem_cons.mp hx with rfl | hx
    · have hanswer : answerEntry p x a s = answered p x a s :=
        answerEntry_answered ⟨hqueued x List.mem_cons_self, hmark⟩ hr a
      obtain ⟨hqueue, hresponses⟩ := answerAll_keeps (p := p) a rest hr'
      rw [hanswer] at hqueue hresponses
      have hlist : answerAll p a (x :: rest) s = answerAll p a rest (answered p x a s) :=
        congrArg (answerAll p a rest) hanswer
      rw [hlist]
      refine ⟨hresponses _ ?_, fun y hy => ?_⟩
      · rw [answered, portUnit_updPort_same]
        exact List.mem_append_right _ List.mem_cons_self
      · have hy := hqueue y hy
        rw [answered, portUnit_updPort_same] at hy
        simpa using (List.mem_filter.mp hy).2
    · have hne : ∀ y ∈ rest, y.tag ≠ e.tag := fun y hy heq => hfirst (List.mem_map.mpr ⟨y, hy, heq⟩)
      exact ih hr' hrest (fun y hy => (hothers _ (hne y hy)).trans (hqueued y (List.mem_cons_of_mem _ hy))) hx
        (by rw [hsession]; exact hmark)

end

/-! ## The waiting requests of the four ports (R21) -/

theorem refuseWaiting_eq (s : State) (p : Port) :
    refuseWaiting s p =
      answerAll p (.notReady .formatting) ((portUnit s p).queue.filter (fun e => decide (e.phase = .waiting))) s := rfl

theorem refuseAll_portsAlone (l : List Port) (s : State) : PortsAlone (l.foldl refuseWaiting s) s := by
  induction l generalizing s with
  | nil => exact .rfl
  | cons p rest ih => exact (ih _).trans (answerAll_portsAlone _ _ _ _)

theorem refuseAll_other {q : Port} (l : List Port) (hq : q ∉ l) (s : State) :
    portUnit (l.foldl refuseWaiting s) q = portUnit s q := by
  induction l generalizing s with
  | nil => rfl
  | cons p rest ih =>
    obtain ⟨hne, hrest⟩ := List.ne_and_not_mem_of_not_mem_cons hq
    exact (ih hrest _).trans (answerAll_other hne _ _ _)

/-- A port's turn in the round comes with its queue as it was. -/
theorem refuseAll_unit {q : Port} (l : List Port) (hnodup : l.Nodup) (hq : q ∈ l) (s : State) :
    ∃ w, PortsAlone w s ∧ portUnit w q = portUnit s q ∧
      portUnit (l.foldl refuseWaiting s) q = portUnit (refuseWaiting w q) q := by
  induction l generalizing s with
  | nil => exact nomatch hq
  | cons p rest ih =>
    obtain ⟨hfirst, hrest⟩ := List.nodup_cons.mp hnodup
    by_cases hp : q = p
    · subst hp
      exact ⟨s, .rfl, rfl, refuseAll_other rest hfirst _⟩
    · obtain ⟨w, halone, hunit, hresult⟩ := ih hrest ((List.mem_cons.mp hq).resolve_left hp) (refuseWaiting s p)
      exact ⟨w, halone.trans (answerAll_portsAlone _ _ _ _), hunit.trans (answerAll_other hp _ _ _), hresult⟩

/-- The round answers NOT_READY to every waiting request of the port's session, and leaves the others queued (R21). -/
theorem refuseAll_answers {s : State} {q : Port} (hok : PortsOk s) (hr : s.mif.restartTaken = false) :
    (∀ x ∈ (portUnit s q).queue, x.phase = .waiting → x.mark = (portUnit s q).session →
      { kind := kindCode x.kind, tag := x.tag, answer := .notReady .formatting } ∈
          (portUnit (allPorts.foldl refuseWaiting s) q).responses ∧
        ∀ y ∈ (portUnit (allPorts.foldl refuseWaiting s) q).queue, y.tag ≠ x.tag) ∧
    ∀ e, queued s q e.tag = some e → e.phase ≠ .waiting →
      queued (allPorts.foldl refuseWaiting s) q e.tag = some e := by
  obtain ⟨w, halone, hunit, hresult⟩ := refuseAll_unit allPorts (by decide) (mem_allPorts q) s
  have hr' : w.mif.restartTaken = false := by
    rw [halone.mif]
    exact hr
  have htags := hok.tags q
  rw [← hunit] at htags
  have hqueued : ∀ x ∈ (portUnit w q).queue.filter (fun e => decide (e.phase = .waiting)), queued w q x.tag = some x :=
    fun x hx => queued_of_mem htags (List.mem_of_mem_filter hx)
  have hqueue : ∀ tag, queued (allPorts.foldl refuseWaiting s) q tag = queued (refuseWaiting w q) q tag := fun tag => by
    unfold queued
    rw [hresult]
  rw [hresult]
  refine ⟨fun x hx hphase hmark => ?_, fun e he hphase => ?_⟩
  · rw [← hunit] at hx hmark
    exact answerAll_answers _ _ hr' (htags.sublist (List.filter_sublist.map _)) hqueued
      (List.mem_filter.mpr ⟨hx, decide_eq_true hphase⟩) hmark
  · have he' : queued w q e.tag = some e := by
      unfold queued
      rw [hunit]
      exact he
    rw [hqueue, refuseWaiting_eq, answerAll_queued _ _ hr' fun x hx heq => ?_]
    · exact he'
    · have hsame := hqueued x hx
      rw [← heq, he'] at hsame
      cases hsame
      exact hphase (of_decide_eq_true (List.mem_filter.mp hx).2)

/-! ## FORMATTING entered (R12, R21, R86, R163, R174, R176) -/

/-- The state that enters FORMATTING, before the level conditions are evaluated and the waiting requests refused. -/
def formattingBegun (p : Port) (e : QEntry) (s : State) : State :=
  { s with
    mif :=
      { s.mif with
        indexState := .formatting, formatWaits := none,
        formatJob := some { port := p, tag := e.tag, mark := e.mark, startCount := formatStartCount s } },
    mem := memHeader (fun h => { h with mark := 0#32 }) s.mem,
    stu := { s.stu with timer := none },
    clu := { s.clu with updates := [] }, bte := { s.bte with held := none } }

/-- FORMATTING entered, before the waiting requests are refused. -/
def formattingEntered (p : Port) (e : QEntry) (s : State) : State :=
  evalContainersLow (evalOccupancy (markTaken p e.tag (formattingBegun p e s)))

theorem enterFormatting_eq (p : Port) (e : QEntry) (s : State) :
    enterFormatting p e s = allPorts.foldl refuseWaiting (formattingEntered p e s) := rfl

/-- What entering FORMATTING leaves of each block. -/
theorem formattingEntered_blocks (p : Port) (e : QEntry) (s : State) :
    (formattingEntered p e s).mif = (formattingBegun p e s).mif ∧
    (formattingEntered p e s).mem = (formattingBegun p e s).mem ∧
    (formattingEntered p e s).stu.timer = none ∧ (formattingEntered p e s).ixc = { s.ixc with occupancyHigh := false } ∧
    (formattingEntered p e s).ctu.containersLow = false ∧ (formattingEntered p e s).clu.updates = [] ∧
    (formattingEntered p e s).bte.held = none := by
  unfold formattingEntered
  simp [formattingBegun, occupancyCondition, containersLowCondition]

theorem enterFormatting_blocks (p : Port) (e : QEntry) (s : State) :
    (enterFormatting p e s).mif = (formattingBegun p e s).mif ∧
    (enterFormatting p e s).mem = (formattingBegun p e s).mem ∧
    (enterFormatting p e s).stu.timer = none ∧ (enterFormatting p e s).ixc = { s.ixc with occupancyHigh := false } ∧
    (enterFormatting p e s).ctu.containersLow = false ∧ (enterFormatting p e s).clu.updates = [] ∧
    (enterFormatting p e s).bte.held = none := by
  obtain ⟨ports, hports⟩ := refuseAll_portsAlone allPorts (formattingEntered p e s)
  rw [enterFormatting_eq, hports]
  exact formattingEntered_blocks p e s

theorem formattingEntered_portsOk {s : State} (p : Port) (e : QEntry) (h : PortsOk s) :
    PortsOk (formattingEntered p e s) :=
  evalContainersLow_portsOk (evalOccupancy_portsOk (markTaken_portsOk p e.tag (h.of_ports rfl)))

theorem formattingEntered_notices (p : Port) (e : QEntry) (s : State) :
    NoticesOnly (formattingEntered p e s) (markTaken p e.tag (formattingBegun p e s)) :=
  (evalContainersLow_notices _).trans (evalOccupancy_notices _)

theorem queued_formattingEntered (p : Port) (e : QEntry) (s : State) (q : Port) (tag : Tag) :
    queued (formattingEntered p e s) q tag = queued (markTaken p e.tag (formattingBegun p e s)) q tag := by
  unfold queued
  rw [(formattingEntered_notices p e s q).queue]

/-- The test of a FORMAT in READY (R176). -/
theorem formatTests_iff (s : State) : formatTests s = true ↔ NothingInUse s := by
  unfold formatTests NothingInUse claimInUse
  simp [and_assoc]

section
variable {s : State} {p : Port} {e : QEntry}

theorem exec_format (htake : CanTake s p e) (hkind : e.kind = .format) :
    exec (.format p (.take e.tag)) s = .next (takeFormat p e s) :=
  congrArg _ (request_taken htake hkind takeFormat)

theorem takeFormatNow_refused (hready : s.mif.indexState = .ready) (hused : ¬ NothingInUse s) (hq : IsQueued s p e)
    (hr : s.mif.restartTaken = false) :
    takeFormatNow p e s = answered p e .wrongState { s with mif := { s.mif with formatWaits := none } } := by
  have htests : formatTests s = false := by
    rw [← Bool.not_eq_true, formatTests_iff]
    exact hused
  exact (if_pos ⟨hready, htests⟩).trans
    (answerEntry_answered (s := { s with mif := { s.mif with formatWaits := none } }) (hq.of_ports rfl) hr _)

theorem takeFormatNow_enters (h : s.mif.indexState = .unformatted ∨ NothingInUse s) :
    takeFormatNow p e s = enterFormatting p e s := by
  refine if_neg ?_
  rintro ⟨hready, htests⟩
  rcases h with hunformatted | hnothing
  · exact absurd (hunformatted.symm.trans hready) (by decide)
  · exact absurd (((formatTests_iff s).mpr hnothing).symm.trans htests) (by decide)

/-- The waiting requests are refused and FORMAT itself stays queued, noted as taken (R21, R142). -/
theorem enterFormatting_requests (hok : PortsOk s) (hr : s.mif.restartTaken = false)
    (hqueued : queued s p e.tag = some e) (hphase : e.phase = .atBlock) :
    (∀ q x, x ∈ (portUnit s q).queue → x.phase = .waiting → x.mark = (portUnit s q).session →
      { kind := kindCode x.kind, tag := x.tag, answer := .notReady .formatting } ∈
          (portUnit (enterFormatting p e s) q).responses ∧
        ∀ y ∈ (portUnit (enterFormatting p e s) q).queue, y.tag ≠ x.tag) ∧
    queued (enterFormatting p e s) p e.tag = some { e with taken := true } := by
  have hok' := formattingEntered_portsOk p e hok
  obtain ⟨hmif, -⟩ := formattingEntered_blocks p e s
  have hr' : (formattingEntered p e s).mif.restartTaken = false := by
    rw [hmif]
    exact hr
  have hmine : queued (formattingEntered p e s) p e.tag = some { e with taken := true } := by
    rw [queued_formattingEntered]
    exact queued_markTaken (s := formattingBegun p e s) hqueued
  rw [enterFormatting_eq]
  refine ⟨fun q x hx hwaiting hmark => ?_, ?_⟩
  · obtain ⟨hanswers, -⟩ := refuseAll_answers (q := q) hok' hr'
    have hx' : queued s q x.tag = some x := queued_of_mem (hok.tags q) hx
    have hentered : queued (formattingEntered p e s) q x.tag = some x := by
      rw [queued_formattingEntered]
      by_cases hq : q = p
      · subst hq
        rw [queued_markTaken_ne _ fun htag => ?_]
        · exact hx'
        · rw [htag, hqueued] at hx'
          cases hx'
          exact absurd (hphase.symm.trans hwaiting) (by decide)
      · unfold queued markTaken updEntry
        rw [portUnit_updPort_ne _ _ hq]
        exact hx'
    have hsession : (portUnit (formattingEntered p e s) q).session = (portUnit s q).session := by
      rw [(formattingEntered_notices p e s q).session]
      by_cases hq : q = p
      · subst hq
        exact markTaken_session _ _ _
      · exact congrArg _ (portUnit_updPort_ne _ _ hq)
    exact hanswers x (List.mem_of_find?_eq_some hentered) hwaiting (by rw [hsession]; exact hmark)
  · obtain ⟨-, hkeeps⟩ := refuseAll_answers (q := p) hok' hr'
    exact hkeeps { e with taken := true } hmine (by rw [hphase]; decide)

theorem waitingFormat_eq (hwaits : s.mif.formatWaits = some (p, e.tag)) (hq : IsQueued s p e)
    (hr : s.mif.restartTaken = false) :
    waitingFormat s = if s.ixc.inProgress = none then some (p, e) else none := by
  obtain ⟨hqueued, -⟩ := hq
  unfold waitingFormat
  simp only [hwaits, hr, hqueued, Option.isNone_iff_eq_none, and_true]
  rfl

theorem exec_formatAfterOperation_taken (hpow : s.powered = true) (h : waitingFormat s = some (p, e)) :
    exec .formatAfterOperation s = .next (takeFormatNow p e s) := by
  refine congrArg Host.Outcome.next ((if_pos hpow).trans ?_)
  simp only [h]

theorem exec_formatAfterOperation_waits (h : waitingFormat s = none) : exec .formatAfterOperation s = .next s := by
  refine congrArg Host.Outcome.next ?_
  unfold whenPowered
  split
  · simp only [h]
  · rfl

end

/-- Settles O20: FORMATTING entered, a FORMAT refused, one that waits, and the end of its wait. -/
theorem formatIsTestedAndTaken : Obligations.FormatIsTestedAndTaken := by
  refine ⟨fun s p e htake hkind hok hstate => ?_, fun s p e htake hkind hready => ⟨fun hidle hused => ?_, fun hbusy => ?_⟩,
    fun s p e hpow hwaits hq hr hready => ?_⟩
  · obtain ⟨hqueued, -, -, hphase, -, -, -, -⟩ := takeable_some htake.2.1
    have henters : takeFormat p e s = enterFormatting p e s := by
      refine (if_neg ?_).trans (takeFormatNow_enters (hstate.imp id fun h => h.2.2))
      rintro ⟨hready, hbusy⟩
      rcases hstate with hunformatted | ⟨-, hidle, -⟩
      · exact absurd (hunformatted.symm.trans hready) (by decide)
      · rw [hidle] at hbusy
        exact absurd hbusy (by decide)
    obtain ⟨hmif, hmem, htimer, hixc, hlow, hupdates, hheld⟩ := enterFormatting_blocks p e s
    obtain ⟨hrefused, hmine⟩ := enterFormatting_requests hok htake.restart hqueued hphase
    refine ⟨enterFormatting p e s, (exec_format htake hkind).trans (by rw [henters]), by rw [hmif]; rfl,
      by rw [hmif]; rfl, by rw [hmem]; rfl, by rw [hmem]; rfl, by rw [hmem]; rfl, by rw [hmem]; rfl, htimer, by rw [hixc],
      hlow, hupdates, hheld, by rw [hixc], hrefused, hmine⟩
  · obtain ⟨-, -, -, -, -, -, -, hnotWaiting⟩ := takeable_some htake.2.1
    have hnone : s.mif.formatWaits = none := by simpa [notWaiting, hkind] using hnotWaiting
    have hsame : { s with mif := { s.mif with formatWaits := none } } = s := by rw [← hnone]
    have hnow : takeFormat p e s = takeFormatNow p e s := if_neg fun h => by
      rw [hidle] at h
      exact absurd h.2 (by decide)
    rw [exec_format htake hkind, hnow, takeFormatNow_refused hready hused htake.isQueued htake.restart, hsame]
  · rw [exec_format htake hkind]
    exact congrArg _ (if_pos ⟨hready, Option.isSome_iff_ne_none.mpr hbusy⟩)
  · have hwaiting := waitingFormat_eq hwaits hq hr
    have htaken : s.ixc.inProgress = none → exec .formatAfterOperation s = .next (takeFormatNow p e s) := fun hidle =>
      exec_formatAfterOperation_taken hpow (hwaiting.trans (if_pos hidle))
    refine ⟨fun hbusy => exec_formatAfterOperation_waits (hwaiting.trans (if_neg hbusy)), fun hidle hused => ?_,
      fun hidle hnothing => ⟨enterFormatting p e s, ?_, ?_⟩⟩
    · rw [htaken hidle, takeFormatNow_refused hready hused hq hr]
    · rw [htaken hidle, takeFormatNow_enters (.inr hnothing)]
    · obtain ⟨hmif, hmem, -⟩ := enterFormatting_blocks p e s
      rw [hmif, hmem]
      refine ⟨rfl, rfl, rfl, ?_⟩
      simp [formattingBegun, formatStartCount, hready]

end Sys2Proof.Machine
end

section
/-! RESTART: its answer, its reset, and the requests that other blocks still take (R93, R142, R171, R172, R177). -/

namespace Sys2Proof.Machine

/-! ## RESTART taken, and frames afterwards (R143, R177) -/

/-- A port that takes no frame sees the symbols of one that arrives (R131, R177). -/
theorem arrive_discarded {s : State} {p : Port} (hdown : (portUnit s p).state ≠ .down) (h : takesFrames s p = false)
    (code : Byte) (k : Option Kind) (f : RequestFrame) : arrive p code k f s = (seeSymbols p s, false) := by
  unfold arrive
  rw [if_neg hdown, h]
  rfl

theorem takesFrames_restart {s : State} (h : s.mif.restartTaken = true) (p : Port) : takesFrames s p = false := by
  rw [← Bool.not_eq_true, takesFrames_iff]
  rintro ⟨hrestart, -⟩
  exact absurd (h.symm.trans hrestart) (by decide)

theorem takeRestart_answered {s : State} {p : Port} {e : QEntry} (h : CanTake s p e) :
    takeRestart p e s = { answered p e (.done .none) s with mif := { s.mif with restartTaken := true } } := by
  unfold takeRestart
  rw [answerEntry_answered h.isQueued h.restart]
  rfl

/-! ## The reset (R93, R159, R171, R172, R177) -/

/-- The end of a walk has no part in the frames on the links. -/
theorem cutWalk_flushResponses (w : WalkPoint) (s : State) :
    cutWalk w (flushResponses s) =
      { cutWalk w s with linkOut := fourOf (fun p => lastFrame (portUnit s p) (fourGet s.linkOut p)) } := by
  unfold cutWalk
  have hstate : (flushResponses s).mif.indexState = s.mif.indexState := rfl
  rw [hstate]
  split <;> rfl

/-- Index memory after a RESTART's reset, its modules where they stood: the clock saved where it has been loaded (R93). -/
def resetMem (w : WalkPoint) (s : State) : IndexMemory :=
  if s.tmb.clockLoaded = true then memHeader (fun h => { h with clock := s.tmb.clock }) (cutWalk w s).mem
  else (cutWalk w s).mem

theorem restartPart_eq (i : StartInputs) (w : WalkPoint) (s : State) :
    restartPart i w s =
      let out := fourOf (fun p => lastFrame (portUnit s p) (fourGet s.linkOut p))
      let m := moveModules i.stood (resetMem w s)
      let t := State.afterReset s.pending out m i (startState i.descriptors m)
      { t with mif := { t.mif with silenced := true, silenceMs := 0 } } := by
  have hclock : (cutWalk w s).tmb = s.tmb := by simp
  have hpending : (cutWalk w s).pending = s.pending := by simp
  unfold restartPart resetMem
  rw [cutWalk_flushResponses]
  dsimp only
  rw [hclock]
  cases s.tmb.clockLoaded with
  | true => simp only [doWhen, saveClock, updMem, startPart, if_true, hpending]
  | false => simp only [doWhen, startPart, Bool.false_eq_true, if_false, hpending]

theorem exec_restartReset_of {s : State} (hpow : s.powered = true) (hrestart : s.mif.restartTaken = true)
    (hidle : s.ixc.inProgress = none) (i : StartInputs) (w : WalkPoint) :
    exec (.restartReset i w) s = .next (restartPart i w s) := by
  refine congrArg _ ((if_pos hpow).trans (doWhen_of _ _ ?_))
  simp [mayReset, hrestart, hidle]

theorem exec_restartReset_waits {s : State} (h : s.mif.restartTaken = false ∨ s.ixc.inProgress ≠ none) (i : StartInputs)
    (w : WalkPoint) : exec (.restartReset i w) s = .next s := by
  refine congrArg Host.Outcome.next ?_
  unfold whenPowered
  rw [doWhen_of_not, ite_self]
  unfold mayReset
  rw [ne_eq, Bool.and_eq_true, Option.isNone_iff_eq_none]
  rintro ⟨hrestart, hidle⟩
  exact h.elim (fun hfalse => absurd (hrestart.symm.trans hfalse) (by decide)) fun hbusy => hbusy hidle

/-! ## Requests noted as taken, no response made (R142, R177) -/

/-- The request with the tag, where one is queued, is noted as taken. -/
def TakenAt (s : State) (p : Port) (tag : Tag) : Prop := ∀ x, queued s p tag = some x → x.taken = true

/-- Within a RESTART no port's responses change, requests noted as taken stay so, and the port's session stands. -/
def OnlyMarks (p : Port) (t s : State) : Prop :=
  s.mif.restartTaken = true → t.mif.restartTaken = true ∧ (portUnit t p).session = (portUnit s p).session ∧
    ∀ q, (portUnit t q).responses = (portUnit s q).responses ∧ ∀ tag, TakenAt s q tag → TakenAt t q tag

theorem OnlyMarks.rfl {p : Port} {s : State} : OnlyMarks p s s := fun hr =>
  ⟨hr, Eq.refl _, fun _ => ⟨Eq.refl _, fun _ h => h⟩⟩

theorem OnlyMarks.trans {p : Port} {a b c : State} (h : OnlyMarks p a b) (k : OnlyMarks p b c) : OnlyMarks p a c :=
  fun hr => by
    obtain ⟨hr', hsession, hunits⟩ := k hr
    obtain ⟨hr'', hsession', hunits'⟩ := h hr'
    refine ⟨hr'', hsession'.trans hsession, fun q => ?_⟩
    obtain ⟨hresponses, htaken⟩ := hunits q
    obtain ⟨hresponses', htaken'⟩ := hunits' q
    exact ⟨hresponses'.trans hresponses, fun tag ht => htaken' tag (htaken tag ht)⟩

/-- Port units that keep responses, queue and session. -/
theorem OnlyMarks.of_units {p : Port} {t s : State} (hm : t.mif.restartTaken = s.mif.restartTaken)
    (hsession : (portUnit t p).session = (portUnit s p).session)
    (h : ∀ q, (portUnit t q).responses = (portUnit s q).responses ∧
      ((portUnit t q).queue = (portUnit s q).queue ∨ (portUnit t q).queue = [])) : OnlyMarks p t s := fun hr => by
  refine ⟨hm.trans hr, hsession, fun q => ⟨(h q).1, fun tag ht => ?_⟩⟩
  unfold TakenAt queued at ht ⊢
  obtain ⟨-, hqueue | hqueue⟩ := h q
  · rw [hqueue]
    exact ht
  · rw [hqueue]
    exact fun x hx => nomatch hx

theorem OnlyMarks.of_notices {p : Port} {t s : State} (h : NoticesOnly t s)
    (hm : t.mif.restartTaken = s.mif.restartTaken) : OnlyMarks p t s :=
  .of_units hm (h p).session fun q => ⟨(h q).responses, .inl (h q).queue⟩

theorem OnlyMarks.of_quiet {p : Port} {t s : State} (h : QuietWork t s) : OnlyMarks p t s :=
  .of_notices h.1 (by rw [h.2])

/-- An entry noted as taken, whatever else is noted in it. -/
theorem updEntry_taken {g : QEntry → QEntry} (hg : ∀ x, (g x).tag = x.tag ∧ (g x).taken = true) (p : Port) (tag : Tag)
    (s : State) (tag' : Tag) (h : tag' = tag ∨ TakenAt s p tag') : TakenAt (updEntry p tag g s) p tag' := by
  have htag : ∀ x, (if x.tag = tag then g x else x).tag = x.tag := fun x => by
    split
    · exact (hg x).1
    · rfl
  unfold TakenAt queued at h ⊢
  unfold updEntry
  rw [portUnit_updPort_same]
  dsimp only
  intro x hx
  rw [List.find?_map] at hx
  obtain ⟨y, hy, rfl⟩ := Option.map_eq_some_iff.mp hx
  have hy' : (portUnit s p).queue.find? (fun e => decide (e.tag = tag')) = some y := by
    simpa only [Function.comp_def, htag] using hy
  split
  · exact (hg y).2
  · next hne =>
    have hytag : y.tag = tag' := by simpa using List.find?_some hy'
    exact h.elim (fun heq => absurd (hytag.trans heq) hne) fun hall => hall y hy'

theorem updEntry_onlyMarks {g : QEntry → QEntry} (hg : ∀ x, (g x).tag = x.tag ∧ (g x).taken = true) (p q : Port)
    (tag : Tag) (s : State) : OnlyMarks p (updEntry q tag g s) s := fun hr => by
  refine ⟨hr, ?_, fun r => ?_⟩
  · unfold updEntry
    rw [portUnit_updPort]
    split
    · next h => rw [h]
    · rfl
  · by_cases hrq : r = q
    · subst hrq
      refine ⟨?_, fun tag' ht => updEntry_taken hg r tag s tag' (.inr ht)⟩
      unfold updEntry
      rw [portUnit_updPort_same]
    · have hunit : portUnit (updEntry q tag g s) r = portUnit s r := portUnit_updPort_ne _ _ hrq
      unfold TakenAt queued
      rw [hunit]
      exact ⟨rfl, fun _ h => h⟩

theorem markTaken_onlyMarks (p q : Port) (tag : Tag) (s : State) : OnlyMarks p (markTaken q tag s) s :=
  updEntry_onlyMarks (g := fun e => { e with taken := true }) (fun _ => ⟨rfl, rfl⟩) p q tag s

theorem markTaken_taken (p : Port) (tag : Tag) (s : State) : TakenAt (markTaken p tag s) p tag :=
  updEntry_taken (g := fun e => { e with taken := true }) (fun _ => ⟨rfl, rfl⟩) p tag s tag (.inl rfl)

/-- Within a RESTART an outcome makes no response (R177). -/
theorem answer_onlyMarks (p q : Port) (tag : Tag) (mark : Session) (a : Answer) (s : State) :
    OnlyMarks p (answer q tag mark a s) s := fun hr => by
  by_cases h : queued s q tag = none ∨ mark ≠ (portUnit s q).session
  · rw [answer_dropped a h]
    exact OnlyMarks.rfl hr
  · obtain ⟨hsome, hmark⟩ := not_or.mp h
    obtain ⟨e, he⟩ := Option.ne_none_iff_exists'.mp hsome
    rw [answer_restarted a he (not_not.mp hmark) hr]
    exact markTaken_onlyMarks p q tag s hr

/-- The outcome of a request of the port's session leaves it noted as taken (R142, R177). -/
theorem answerEntry_taken {s : State} {p : Port} {e : QEntry} (a : Answer) (hr : s.mif.restartTaken = true)
    (hmark : e.mark = (portUnit s p).session) : TakenAt (answerEntry p e a s) p e.tag := by
  unfold answerEntry
  cases hqueued : queued s p e.tag with
  | none =>
    rw [answer_dropped a (.inl hqueued)]
    intro x hx
    exact nomatch hqueued.symm.trans hx
  | some x =>
    rw [answer_restarted a hqueued hmark hr]
    exact markTaken_taken p e.tag s

/-! ## A request taken once within a RESTART -/

/-- A queued request of the port's session that its block can still take within a RESTART (log 18). -/
def TakenLate (s : State) (p : Port) (e : QEntry) : Prop :=
  s.mif.restartTaken = true ∧ takeable s p e.kind e.tag = some e ∧ e.mark = (portUnit s p).session

/-- The taking makes no response, and is not made a second time with an effect. -/
def TakenOnce (p : Port) (e : QEntry) (s t : State) : Prop :=
  OnlyMarks p t s ∧ (t = s ∨ takeable t p e.kind e.tag = none)

theorem TakenOnce.of_taken {p : Port} {e : QEntry} {s t : State} (h : OnlyMarks p t s) (ht : TakenAt t p e.tag) :
    TakenOnce p e s t := ⟨h, .inr (takeable_taken ht)⟩

theorem TakenOnce.unchanged {p : Port} {e : QEntry} {s : State} : TakenOnce p e s s := ⟨.rfl, .inl rfl⟩

section
variable {s : State} {p : Port} {e : QEntry}

/-- The request answered after work that makes no response. -/
theorem TakenLate.answered {t : State} (h : TakenLate s p e) (ht : OnlyMarks p t s) (a : Answer) :
    TakenOnce p e s (answerEntry p e a t) := by
  obtain ⟨hrestart, -, hmark⟩ := h
  obtain ⟨hrestart', hsession, -⟩ := ht hrestart
  exact .of_taken ((answer_onlyMarks p p e.tag e.mark a t).trans ht)
    (answerEntry_taken a hrestart' (hmark.trans hsession.symm))

theorem TakenLate.answering (h : TakenLate s p e) {work : Port → QEntry → State → State × Answer}
    (hwork : OnlyMarks p (work p e s).1 s) : TakenOnce p e s (answering work p e s) := h.answered hwork _

theorem TakenLate.takeable (h : TakenLate s p e) : takeable s p e.kind e.tag = some e := h.2.1

/-- The memory interface takes nothing more (R177). -/
theorem TakenLate.not_mif (h : TakenLate s p e) : requestOwner p e.request ≠ .mif := fun howner => by
  obtain ⟨hrestart, htake, -⟩ := h
  obtain ⟨-, -, -, -, -, -, hfree, -⟩ := takeable_some htake
  rw [howner, blockFree, hrestart] at hfree
  exact absurd hfree (by decide)

/-! ### What each block's work leaves of queues and responses -/

theorem evalAdmission_onlyMarks (p q : Port) (s : State) : OnlyMarks p (evalAdmission q s) s := by
  have hunits : ∀ r, (portUnit (evalAdmission q s) r).session = (portUnit s r).session ∧
      (portUnit (evalAdmission q s) r).responses = (portUnit s r).responses ∧
      (portUnit (evalAdmission q s) r).queue = (portUnit s r).queue := fun r => by
    rw [portUnit_evalAdmission]
    split
    · split
      · next h => rw [h]; exact ⟨rfl, rfl, rfl⟩
      · have hnotices := unitRaise_notices .peerAdmitted (portUnit s r)
        exact ⟨hnotices.session, hnotices.responses, hnotices.queue⟩
    · exact ⟨rfl, rfl, rfl⟩
  exact .of_units (by simp) (hunits p).1 fun r => ⟨(hunits r).2.1, .inl (hunits r).2.2⟩

/-- A change of one port unit that leaves session, responses and queue. -/
theorem updPort_onlyMarks {g : PortUnit → PortUnit} (p q : Port) (s : State)
    (hg : (g (portUnit s q)).session = (portUnit s q).session ∧
      (g (portUnit s q)).responses = (portUnit s q).responses ∧ (g (portUnit s q)).queue = (portUnit s q).queue) :
    OnlyMarks p (updPort q g s) s := by
  have hunits : ∀ r, (portUnit (updPort q g s) r).session = (portUnit s r).session ∧
      (portUnit (updPort q g s) r).responses = (portUnit s r).responses ∧
      (portUnit (updPort q g s) r).queue = (portUnit s r).queue := fun r => by
    rw [portUnit_updPort]
    split
    · next h => rw [h]; exact hg
    · exact ⟨rfl, rfl, rfl⟩
  exact .of_units rfl (hunits p).1 fun r => ⟨(hunits r).2.1, .inl (hunits r).2.2⟩

theorem setOnePort_onlyMarks (p : Port) (map : Option (BitVec 64)) (auto : Option Bool) (s : State) (q : Port) :
    OnlyMarks p (setOnePort map auto s q) s := by
  have hport : OnlyMarks p (updPort q (changedPort map auto) s) s := updPort_onlyMarks p q s ⟨rfl, rfl, rfl⟩
  have hmem : ∀ (g : IndexMemory → IndexMemory) (t : State), OnlyMarks p (updMem g t) t := fun g t =>
    .of_notices (.of_ports rfl) rfl
  unfold setOnePort
  dsimp only
  split
  · exact (evalAdmission_onlyMarks p q _).trans ((hmem _ _).trans hport)
  · exact (hmem _ _).trans hport

theorem setPortWork_onlyMarks (p : Port) (e : QEntry) (s : State) : OnlyMarks p (setPortWork p e s).1 s := by
  have hall : ∀ map auto (l : List Port) (t : State), OnlyMarks p (l.foldl (setOnePort map auto) t) t := by
    intro map auto l
    induction l with
    | nil => exact fun t => .rfl
    | cons q rest ih => exact fun t => (ih _).trans (setOnePort_onlyMarks p map auto t q)
  unfold setPortWork
  split
  · dsimp only
    unfold setPorts
    split
    · exact .rfl
    · split
      · exact setOnePort_onlyMarks p _ _ s _
      · exact hall _ _ _ s
  · exact .rfl

theorem enterOnline_onlyMarks (p q : Port) (s : State) : OnlyMarks p (enterOnline q s) s :=
  .trans (.of_notices (raiseOthers_notices q .peerAdmitted _) rfl) (updPort_onlyMarks p q s ⟨rfl, rfl, rfl⟩)

theorem admitWork_onlyMarks (p : Port) (e : QEntry) (s : State) : OnlyMarks p (admitWork p e s).1 s := by
  unfold admitWork
  split
  · split
    · exact (enterOnline_onlyMarks p _ _).trans (updPort_onlyMarks p _ s ⟨rfl, rfl, rfl⟩)
    · exact .rfl
  · exact .rfl

/-- The departure of another port discards its queue, and its responses stay (R143, R156). -/
theorem takeEviction_onlyMarks {p q : Port} (hq : q ≠ p) (s : State) : OnlyMarks p (takeEviction q s) s := by
  have hdrop : ∀ t : State, OnlyMarks p (dropWaitingFormat q t) t := fun t => by
    unfold dropWaitingFormat
    split
    · split
      · exact .of_notices (.of_ports rfl) rfl
      · exact .rfl
    · exact .rfl
  refine .trans (.of_notices (raiseTo_notices q .portFenced _) rfl) (.trans (.of_notices (raiseOthers_notices q .peerLost _) rfl)
    ((hdrop _).trans (.of_units rfl ?_ fun r => ?_)))
  · rw [portUnit_updPort_ne _ _ (Ne.symm hq)]
  · rw [portUnit_updPort]
    split
    · next h => rw [h]; exact ⟨rfl, .inr rfl⟩
    · exact ⟨rfl, .inl rfl⟩

theorem evictWork_onlyMarks (p : Port) (e : QEntry) (s : State) : OnlyMarks p (evictWork p e s).1 s := by
  unfold evictWork
  split
  · split
    · exact .rfl
    · next hq =>
      split
      · exact .rfl
      · exact takeEviction_onlyMarks hq s
      · exact updPort_onlyMarks p _ s ⟨rfl, rfl, rfl⟩
  · exact .rfl

theorem setNamespaceWork_onlyMarks (p : Port) (e : QEntry) (s : State) : OnlyMarks p (setNamespaceWork p e s).1 s := by
  unfold setNamespaceWork
  split
  · dsimp only
    split
    · exact .rfl
    · exact .of_notices (.of_ports rfl) rfl
  · exact .rfl

theorem snapshotWork_onlyMarks (p : Port) (e : QEntry) (s : State) : OnlyMarks p (snapshotWork p e s).1 s := by
  unfold snapshotWork
  split
  · exact .of_notices (takeSnapshot_notices s) rfl
  · exact .rfl

theorem eventMaskWork_onlyMarks (p : Port) (e : QEntry) (s : State) : OnlyMarks p (eventMaskWork p e s).1 s := by
  unfold eventMaskWork
  split
  · exact updPort_onlyMarks p p s ⟨rfl, rfl, rfl⟩
  · exact .rfl

theorem getParameterWork_onlyMarks (p : Port) (e : QEntry) (s : State) : OnlyMarks p (getParameterWork p e s).1 s := by
  unfold getParameterWork
  split <;> exact .rfl

theorem presentItem_onlyMarks (p : Port) (s : State) : OnlyMarks p (presentItem s) s := by
  unfold presentItem
  split
  · exact .rfl
  · split
    · exact .of_notices (.of_ports rfl) rfl
    · exact .rfl

theorem answerWaiter_onlyMarks (p : Port) (w : Waiter) (o : IndexOutcome) (s : State) :
    OnlyMarks p (answerWaiter w o s) s := by
  unfold answerWaiter
  split
  · exact answer_onlyMarks p _ _ _ _ s
  · exact .of_notices (.of_ports rfl) rfl

theorem releaseClaim_onlyMarks (p : Port) (n : Nat) (s : State) : OnlyMarks p (releaseClaim n s) s := by
  unfold releaseClaim
  split
  · exact .of_notices (.of_ports rfl) rfl
  · exact (answerWaiter_onlyMarks p _ _ _).trans ((OnlyMarks.of_quiet (countNs_quiet _ _ _ _)).trans
      (.of_quiet (claimPut_quiet _ _ _)))

/-! ### The takings of the claim unit, the batch engine and the memory interface -/

theorem TakenLate.takeBatch (h : TakenLate s p e) : TakenOnce p e s (takeBatch p e s) := by
  unfold Machine.takeBatch
  split
  · split
    · exact h.answered .rfl _
    · next n _ =>
      split
      · exact h.answered .rfl _
      · have hg : ∀ x : QEntry, ({ x with taken := true, context := some n } : QEntry).tag = x.tag ∧
            ({ x with taken := true, context := some n } : QEntry).taken = true := fun _ => ⟨rfl, rfl⟩
        refine .of_taken ((presentItem_onlyMarks p _).trans
          (.trans (.of_notices (.of_ports rfl) rfl) (updEntry_onlyMarks hg p p e.tag s))) ?_
        have hmarked := updEntry_taken hg p e.tag s e.tag (.inl rfl)
        obtain ⟨hrestart, -, -⟩ := h
        obtain ⟨-, -, hunits⟩ := presentItem_onlyMarks p
          (contextPut n (startedContext p e _) (updEntry p e.tag (fun x => { x with taken := true, context := some n }) s))
          hrestart
        exact (hunits p).2 e.tag hmarked
  · exact .unchanged

theorem TakenLate.takeAbandon (h : TakenLate s p e) : TakenOnce p e s (takeAbandon p e s) := by
  unfold Machine.takeAbandon
  split
  · split
    · exact h.answered .rfl _
    · split
      · exact h.answered .rfl _
      · exact h.answered (releaseClaim_onlyMarks p _ s) _
  · exact .unchanged

theorem TakenLate.takeCommit (h : TakenLate s p e) : TakenOnce p e s (takeCommit p e s) := by
  unfold Machine.takeCommit
  split
  · split
    · exact h.answered .rfl _
    · split
      · exact h.answered .rfl _
      · split
        · exact h.answered .rfl _
        · exact .of_taken (.trans (.of_notices (.of_ports rfl) rfl) (markTaken_onlyMarks p p e.tag s))
            (markTaken_taken p e.tag s)
  · exact .unchanged

theorem TakenLate.takeCancel (h : TakenLate s p e) : TakenOnce p e s (takeCancel p e s) := by
  unfold Machine.takeCancel
  split
  · split
    · exact h.answered .rfl _
    · split
      · next target _ _ x _ _ =>
        have hremoved : OnlyMarks p (removeWaiters (isSingleWaiter p target) s) s := .of_notices (.of_ports rfl) rfl
        exact h.answered ((answer_onlyMarks p p x.tag x.mark (.index .withdrawn) _).trans hremoved) _
      · split
        · exact .of_taken (.trans (.of_notices (.of_ports rfl) rfl) (markTaken_onlyMarks p p e.tag s))
            (markTaken_taken p e.tag s)
        · exact h.answered .rfl _
  · exact .unchanged

theorem TakenLate.takeParameter (h : TakenLate s p e) : TakenOnce p e s (takeParameter p e s) := by
  unfold Machine.takeParameter
  split
  · next q v hreq => exact absurd (by rw [hreq]; rfl) h.not_mif
  · next hreq =>
    unfold handChange
    split
    · next q v hreq' => exact absurd hreq' (hreq q v)
    · exact h.answered .rfl _

theorem answerAll_onlyMarks (p q : Port) (a : Answer) (l : List QEntry) (s : State) :
    OnlyMarks p (answerAll q a l s) s := by
  induction l generalizing s with
  | nil => exact .rfl
  | cons e rest ih => exact (ih _).trans (answer_onlyMarks p q _ _ _ s)

theorem refuseAll_onlyMarks (p : Port) (l : List Port) (s : State) : OnlyMarks p (l.foldl refuseWaiting s) s := by
  induction l generalizing s with
  | nil => exact .rfl
  | cons q rest ih => exact (ih _).trans (answerAll_onlyMarks p q _ _ s)

theorem enterFormatting_once (h : TakenLate s p e) : TakenOnce p e s (enterFormatting p e s) := by
  obtain ⟨hrestart, -, -⟩ := h
  have hbegun : OnlyMarks p (formattingBegun p e s) s := .of_notices (.of_ports rfl) rfl
  have hentered : OnlyMarks p (formattingEntered p e s) (markTaken p e.tag (formattingBegun p e s)) :=
    .of_notices (formattingEntered_notices p e s) (by unfold formattingEntered; simp)
  have hmarked : OnlyMarks p (enterFormatting p e s) (markTaken p e.tag (formattingBegun p e s)) :=
    (refuseAll_onlyMarks p allPorts _).trans hentered
  obtain ⟨-, -, hunits⟩ := hmarked hrestart
  exact .of_taken (hmarked.trans ((markTaken_onlyMarks p p e.tag _).trans hbegun))
    ((hunits p).2 e.tag (markTaken_taken p e.tag _))

/-- A FORMAT that waits is not taken again (R19). -/
theorem takeable_waiting {k : Kind} {tag : Tag} (hk : k = .format) (h : s.mif.formatWaits ≠ none) :
    takeable s p k tag = none := by
  cases htake : takeable s p k tag with
  | none => rfl
  | some x =>
    obtain ⟨-, -, hkind, -, -, -, -, hnotWaiting⟩ := takeable_some htake
    simp [notWaiting, hkind, hk, h] at hnotWaiting

theorem TakenLate.takeFormat (h : TakenLate s p e) (hkind : e.kind = .format) : TakenOnce p e s (takeFormat p e s) := by
  unfold Machine.takeFormat
  split
  · exact ⟨.of_notices (.of_ports rfl) rfl, .inr (takeable_waiting hkind nofun)⟩
  · unfold takeFormatNow
    split
    · exact h.answered (t := { s with mif := { s.mif with formatWaits := none } }) (.of_notices (.of_ports rfl) rfl) _
    · exact enterFormatting_once h

theorem TakenLate.takeRestart (h : TakenLate s p e) : TakenOnce p e s (takeRestart p e s) := by
  obtain ⟨hrestart, -, hmark⟩ := h
  have hanswer := answer_onlyMarks p p e.tag e.mark (.done .none) s
  have hflag : OnlyMarks p (Machine.takeRestart p e s) (answerEntry p e (.done .none) s) := fun _ =>
    ⟨rfl, rfl, fun _ => ⟨rfl, fun _ h => h⟩⟩
  exact .of_taken (hflag.trans hanswer) (answerEntry_taken (.done .none) hrestart hmark)

end

/-- The commands of a kind that a block takes, whatever the step, and their taking within a RESTART. -/
theorem exec_blockCommand_once (k : Kind) (p : Port) : ∃ act : Port → QEntry → State → State,
    (∀ e s, TakenLate s p e → e.kind = k → TakenOnce p e s (act p e s)) ∧
      ∀ r c, blockCommand k p r = some c → ∀ s, exec c s = .next (whenPowered s (runRequest k act p r)) := by
  have hcontainer : ∀ work, ContainerWork work → ∀ e s, TakenLate s p e → e.kind = k →
      TakenOnce p e s (answering work p e s) := fun work hwork e s h _ =>
    h.answering (.of_quiet (hwork p e s).1)
  cases k
  case probe | lookup | ref | move | release | drop | restore | readSlot =>
    exact ⟨fun _ _ s => s, fun _ _ _ _ => .unchanged, fun _ _ h => nomatch h⟩
  case identify => exact ⟨_, fun e s h _ => h.answering .rfl, fun r c h s => by cases h; rfl⟩
  case portStatus => exact ⟨_, fun e s h _ => h.answering .rfl, fun r c h s => by cases h; rfl⟩
  case indexStatus => exact ⟨_, fun e s h _ => h.answering .rfl, fun r c h s => by cases h; rfl⟩
  case stats => exact ⟨_, fun e s h _ => h.answering .rfl, fun r c h s => by cases h; rfl⟩
  case events =>
    exact ⟨_, fun e s h _ => h.answering (updPort_onlyMarks p p s ⟨rfl, rfl, rfl⟩), fun r c h s => by cases h; rfl⟩
  case setEventMask =>
    exact ⟨_, fun e s h _ => h.answering (eventMaskWork_onlyMarks p e s), fun r c h s => by cases h; rfl⟩
  case getParameter =>
    exact ⟨_, fun e s h _ => h.answering (getParameterWork_onlyMarks p e s), fun r c h s => by cases h; rfl⟩
  case setNamespace =>
    exact ⟨_, fun e s h _ => h.answering (setNamespaceWork_onlyMarks p e s), fun r c h s => by cases h; rfl⟩
  case setPort => exact ⟨_, fun e s h _ => h.answering (setPortWork_onlyMarks p e s), fun r c h s => by cases h; rfl⟩
  case admitPort => exact ⟨_, fun e s h _ => h.answering (admitWork_onlyMarks p e s), fun r c h s => by cases h; rfl⟩
  case evict => exact ⟨_, fun e s h _ => h.answering (evictWork_onlyMarks p e s), fun r c h s => by cases h; rfl⟩
  case snapshot => exact ⟨_, fun e s h _ => h.answering (snapshotWork_onlyMarks p e s), fun r c h s => by cases h; rfl⟩
  case openContainer => exact ⟨_, hcontainer _ openContainerWork_container, fun r c h s => by cases h; rfl⟩
  case closeContainer => exact ⟨_, hcontainer _ closeContainerWork_container, fun r c h s => by cases h; rfl⟩
  case reclaim => exact ⟨_, hcontainer _ reclaimWork_container, fun r c h s => by cases h; rfl⟩
  case findEmpty => exact ⟨_, hcontainer _ findEmptyWork_container, fun r c h s => by cases h; rfl⟩
  case containerStatus => exact ⟨_, hcontainer _ containerStatusWork_container, fun r c h s => by cases h; rfl⟩
  case lookupBatch | probeBatch | releaseBatch =>
    exact ⟨_, fun e s h _ => h.takeBatch, fun r c h s => by cases h; rfl⟩
  case commit => exact ⟨_, fun e s h _ => h.takeCommit, fun r c h s => by cases h; rfl⟩
  case abandon => exact ⟨_, fun e s h _ => h.takeAbandon, fun r c h s => by cases h; rfl⟩
  case cancel => exact ⟨_, fun e s h _ => h.takeCancel, fun r c h s => by cases h; rfl⟩
  case setParameter => exact ⟨_, fun e s h _ => h.takeParameter, fun r c h s => by cases h; rfl⟩
  case format => exact ⟨_, fun e s h hk => h.takeFormat hk, fun r c h s => by cases h; rfl⟩
  case restart => exact ⟨_, fun e s h _ => h.takeRestart, fun r c h s => by cases h; rfl⟩

/-- A request taken within a RESTART, outside READY as well (R136, R142, R177). -/
theorem takeRequest_once {s : State} {p : Port} {e : QEntry} {act : Port → QEntry → State → State}
    (h : TakenLate s p e) (hact : TakenOnce p e s (act p e s)) :
    TakenOnce p e s (takeRequest e.kind act p e.tag s) := by
  have htake := h.takeable
  by_cases hallowed : kindAllowed e.kind s.mif.indexState = false
  · rw [takeRequest_notReady htake hallowed]
    exact h.answered .rfl _
  · have heq : takeRequest e.kind act p e.tag s = act p e s := by
      simp [takeRequest, htake, hallowed]
    rw [heq]
    exact hact

/-- Settles O16: RESTART's answer, its reset, the wait for the operation in progress, and the requests still taken. -/
theorem restartIsAnsweredAndResets : Obligations.RestartIsAnsweredAndResets := by
  refine ⟨fun s p e htake hkind => ?_, fun s i w hpow hrestart hidle => ?_, fun s i w h => exec_restartReset_waits h i w,
    fun s p e c hpow hrestart htake hmark hc => ?_⟩
  · refine ⟨takeRestart p e s, congrArg _ (request_taken htake hkind takeRestart), takeRestart_answered htake,
      fun q k f hdown => ?_⟩
    have hpow : (takeRestart p e s).powered = true := by
      rw [takeRestart_answered htake]
      exact htake.1
    rw [exec_arrivalCommand, whenPowered, if_pos hpow, arrive_discarded hdown (takesFrames_restart rfl q)]
    rfl
  · refine ⟨restartPart i w s, losePower w s, moveModules i.stood (resetMem w s),
      startState i.descriptors (moveModules i.stood (resetMem w s)), exec_restartReset_of hpow hrestart hidle i w, exec_powerLoss hpow w, ?_⟩
    intro saved out
    exact ⟨restartPart_eq i w s, modulesMoved_moveModules i.stood saved, startState_noMemory _, startState_recovering,
      startState_unformatted⟩
  · obtain ⟨act, hact, hexec⟩ := exec_blockCommand_once e.kind p
    have hlate : TakenLate s p e := ⟨hrestart, htake, hmark⟩
    have hrun : ∀ t, exec c t = .next (whenPowered t (takeRequest e.kind act p e.tag)) := fun t => hexec _ _ hc t
    have hfirst : exec c s = .next (takeRequest e.kind act p e.tag s) := by
      rw [hrun, whenPowered, if_pos hpow]
    obtain ⟨hmarks, honce⟩ := takeRequest_once hlate (hact e s hlate rfl)
    obtain ⟨-, -, hunits⟩ := hmarks hrestart
    refine ⟨_, hfirst, fun q => (hunits q).1, ?_⟩
    rcases honce with hsame | hnone
    · rw [hsame] at hfirst ⊢
      exact hfirst
    · have hsecond : takeRequest e.kind act p e.tag (takeRequest e.kind act p e.tag s) =
          takeRequest e.kind act p e.tag s := by
        conv_lhs => rw [takeRequest, hnone]
      rw [hrun, whenPowered, hsecond, ite_self]

end Sys2Proof.Machine
end

section
/-! Response frames and the transmitters (R120, R143, R147, R159, R177, R180, R182, R184). -/

namespace Sys2Proof.Machine

/-! ## Bytes of response bodies (R182, R184) -/

theorem duplicateFlags_eq (a b : Bool) :
    ((if a then 1#8 else 0#8) ||| (if b then 2#8 else 0#8)) =
      BitVec.ofNat 8 ((if a = true then 1 else 0) + (if b = true then 2 else 0)) := by
  cases a <;> cases b <;> rfl

theorem teardownByte_eq (a b c : Bool) :
    teardownByte a b c =
      BitVec.ofNat 8 ((if a = true then 1 else 0) + (if b = true then 2 else 0) + (if c = true then 4 else 0)) := by
  cases a <;> cases b <;> cases c <;> rfl

/-- The pairs of a count that is not 0, in the order of a list. -/
theorem filterMap_counts (g : Nat → Nat) (l : List Nat) :
    l.filterMap (fun c => if g c = 0 then none else some (c, g c)) =
      (l.filter (fun c => decide (g c ≠ 0))).map (fun c => (c, g c)) := by
  induction l with
  | nil => rfl
  | cons c rest ih =>
    by_cases hc : g c = 0
    · rw [List.filterMap_cons_none (by simp [hc]), List.filter_cons_of_neg (by simp [hc]), ih]
    · rw [List.filterMap_cons_some (b := (c, g c)) (by simp [hc]), List.filter_cons_of_pos (by simp [hc]), ih,
        List.map_cons]

/-- A batch body: cursor, item records, and the counts of the codes that an item holds (R120, R182). -/
theorem batchBytes_eq (cursor : Nat) (items : List IndexOutcome) :
    let codes := (List.range 256).filter (fun code => decide (codeCount items code ≠ 0))
    batchBytes cursor items =
      beBytes 1 cursor ++ beBytes 1 items.length ++ items.flatMap itemRecord ++ beBytes 1 codes.length ++
        codes.flatMap (fun code => beBytes 1 code ++ beBytes 1 (codeCount items code)) := by
  intro codes
  have hpairs : countPairs items = codes.map (fun code => (code, codeCount items code)) :=
    filterMap_counts (codeCount items) _
  unfold batchBytes
  rw [hpairs, List.length_map, List.flatMap_map]

/-- The recorded capacity in IDENTIFY's body: a flag and four bytes (R179, R182). -/
def recordedBytes : Option (BitVec 32) → List Byte
  | some c => [1#8] ++ beBytes 4 c.toNat
  | none => [0#8, 0#8, 0#8, 0#8, 0#8]

theorem recordedBytes_eq (c : Option (BitVec 32)) :
    [flagCode c.isSome] ++ beBytes 4 (c.getD 0#32).toNat = recordedBytes c := by
  cases c with
  | none => decide
  | some c => rfl

theorem identity_bytes (r : Identity) :
    valuesBytes (.identity r) =
      beBytes 2 Config.vendorCode.toNat ++ beBytes 2 4160 ++ [Config.revision] ++ beBytes 2 r.startCount.toNat ++
        (fourList r.modules).flatMap (fun m => [m.1, moduleStatusCode m.2]) ++
        beBytes 4 r.capacity ++ beBytes 4 r.bucketCount ++ recordedBytes r.recordedCapacity ++
        [flagCode r.settingsDefaulted, flagCode r.containerRebuilt] := by
  rw [← recordedBytes_eq, ← List.append_assoc]
  rfl

theorem edgeCode_eq (m : EdgeMode) : edgeCode m = if m = .both then 1#8 else 0#8 := by
  cases m <;> rfl

theorem itemRecord_length (o : IndexOutcome) : (itemRecord o).length = 12 := by
  cases o <;> rfl

/-! ## Transmitters (R143, R147, R159, R177) -/

section
variable {s : State} {p : Port}

theorem transmitting_silent (h : s.powered = false ∨ s.mif.silenced = true) : transmitting s p = .silent := if_pos h

theorem transmitting_of (hpow : s.powered = true) (hsilent : s.mif.silenced = false) :
    (∀ r, (portUnit s p).finishing = some r → transmitting s p = .response r) ∧
    (∀ r rest, (portUnit s p).finishing = none → (portUnit s p).responses = r :: rest →
      transmitting s p = .response r) ∧
    ((portUnit s p).finishing = none → (portUnit s p).responses = [] → transmitting s p = .idle) := by
  have hspeaks : ¬ (s.powered = false ∨ s.mif.silenced = true) := by simp [hpow, hsilent]
  unfold transmitting
  rw [if_neg hspeaks]
  refine ⟨fun r h => ?_, fun r rest h h' => ?_, fun h h' => ?_⟩
  · rw [h]
  · rw [h, h']
  · rw [h, h']

theorem exec_responseTransmitted (hpow : s.powered = true) :
    exec (.responseTransmitted p) s = .next (transmitNext p s) := congrArg _ (if_pos hpow)

theorem transmitNext_response {r : Response} (h : transmitting s p = .response r) :
    transmitNext p s = updPort p unitSent { s with linkOut := fourSet s.linkOut p (responseBytes r) } := by
  unfold transmitNext
  rw [h]

theorem transmitNext_none (h : transmitting s p = .silent ∨ transmitting s p = .idle) : transmitNext p s = s := by
  unfold transmitNext
  rcases h with h | h <;> rw [h]

theorem unitSent_list {u : PortUnit} {r : Response} {rest : List Response} (h : u.finishing = none)
    (hlist : u.responses = r :: rest) : unitSent u = { u with responses := rest } := by
  unfold unitSent
  rw [h, hlist]
  rfl

theorem unitSent_finishing {u : PortUnit} {r : Response} (h : u.finishing = some r) :
    unitSent u = { u with finishing := none } := by
  unfold unitSent
  rw [h]
  rfl

end

/-- Settles O9: the bytes of each response, and what a transmitter sends and gives up. -/
theorem transmitterSendsInOrder : Obligations.TransmitterSendsInOrder := by
  refine ⟨fun r => rfl, ?_, fun s p => ⟨transmitting_silent, fun hpow hsilent => ?_⟩, fun q out m i st p => ?_,
    fun s p hpow => ⟨fun r rest hsilent hfinishing hlist => ?_, fun r hsilent hfinishing => ?_, fun hsilent => ?_,
      fun hsilent hdue => ?_, fun hsilent hearly => ?_⟩⟩
  · intro coded location flag edge portState indexState entryState counters
    refine ⟨fun l a b => ⟨rfl, ?_⟩, fun t n => ⟨rfl, rfl⟩, ⟨rfl, rfl⟩, fun r => ⟨rfl, rfl⟩, fun st l => ⟨rfl, rfl⟩, ⟨rfl, rfl⟩,
      fun c => ⟨rfl, rfl⟩, ⟨rfl, rfl⟩, ⟨rfl, rfl⟩, ⟨rfl, rfl⟩, ⟨rfl, rfl⟩, ⟨rfl, rfl⟩, ⟨rfl, rfl⟩, ⟨rfl, rfl⟩,
      fun st => ⟨rfl, rfl⟩, ⟨rfl, rfl⟩, ⟨rfl, rfl⟩, ⟨rfl, rfl⟩, ⟨rfl, rfl⟩, ⟨rfl, rfl⟩, ⟨rfl, rfl⟩, ⟨rfl, rfl⟩, ⟨rfl, rfl⟩,
      ⟨rfl, rfl⟩, ⟨rfl, rfl⟩, ⟨rfl, rfl⟩, ⟨rfl, rfl⟩, ⟨rfl, rfl⟩, ⟨rfl, rfl⟩, ⟨rfl, rfl⟩, ⟨rfl, rfl⟩, ⟨rfl, rfl⟩, ⟨rfl, rfl⟩,
      ⟨rfl, rfl⟩, ⟨rfl, rfl⟩, ⟨rfl, rfl⟩, ⟨rfl, rfl⟩, ⟨rfl, rfl⟩, ⟨rfl, rfl⟩, fun o => ⟨rfl, itemRecord_length o⟩,
      fun cursor items => ?_, ⟨rfl, rfl⟩, fun r => ⟨rfl, ?_⟩, fun r => ⟨rfl, ?_⟩, fun r => ⟨rfl, rfl⟩, fun c => ⟨rfl, rfl⟩,
      ⟨rfl, rfl⟩, fun c => ⟨rfl, rfl⟩, fun c => ⟨rfl, rfl⟩, fun set o l => ⟨rfl, rfl⟩, fun mask o l => ⟨rfl, by simp only [edge, ← edgeCode_eq]; rfl⟩,
      fun seq a b => ⟨rfl, rfl⟩, fun v => ⟨rfl, rfl⟩, fun im c => ⟨rfl, ?_⟩, fun r => ⟨rfl, rfl⟩, fun r => ⟨rfl, rfl⟩,
      fun seq => ⟨rfl, rfl⟩⟩
    · rw [← duplicateFlags_eq]
      rfl
    · intro count codes body
      exact ⟨⟨rfl, batchBytes_eq cursor items⟩, ⟨rfl, batchBytes_eq cursor items⟩⟩
    · exact identity_bytes r
    · rw [← teardownByte_eq]
      rfl
    · rfl
  · obtain ⟨hfinishing, hlist, hidle⟩ := transmitting_of (p := p) hpow hsilent
    refine ⟨hfinishing, hlist, fun hnone hempty => ⟨hidle hnone hempty, ?_⟩⟩
    rw [exec_responseTransmitted hpow, transmitNext_none (.inr (hidle hnone hempty))]
  · obtain ⟨-, -, hidle⟩ := transmitting_of (s := State.afterReset q out m i st) (p := p) rfl rfl
    rw [portUnit_afterReset] at hidle
    exact hidle rfl rfl
  · obtain ⟨-, hsends, -⟩ := transmitting_of (p := p) hpow hsilent
    rw [exec_responseTransmitted hpow, transmitNext_response (hsends r rest hfinishing hlist)]
    exact congrArg (fun t : State => Host.Outcome.next { t with linkOut := fourSet s.linkOut p (responseBytes r) })
      (updPort_congr (g := unitSent) (h := fun u => { u with responses := rest }) (s := s)
        (unitSent_list hfinishing hlist))
  · obtain ⟨hsends, -, -⟩ := transmitting_of (p := p) hpow hsilent
    rw [exec_responseTransmitted hpow, transmitNext_response (hsends r hfinishing)]
    exact congrArg (fun t : State => Host.Outcome.next { t with linkOut := fourSet s.linkOut p (responseBytes r) })
      (updPort_congr (g := unitSent) (h := fun u => { u with finishing := none }) (s := s)
        (unitSent_finishing hfinishing))
  · rw [exec_responseTransmitted hpow, transmitNext_none (.inl (transmitting_silent (.inr hsilent)))]
  · exact congrArg _ ((if_pos hpow).trans (doWhen_of _ _ (by rw [hsilent]; exact decide_eq_true hdue)))
  · refine congrArg _ ((if_pos hpow).trans (doWhen_of_not _ _ ?_))
    rw [hsilent]
    exact fun hdue => absurd (of_decide_eq_true hdue) (Nat.not_le.mpr hearly)

end Sys2Proof.Machine
end

section
/-! Request frames: what a master writes is what the port reads (R109, R134, R141, R181). -/

namespace Sys2Proof.Machine

/-! ## Fields at the end of a body -/

theorem takeNum_end {n v : Nat} (h : v < 256 ^ n) : takeNum n (beBytes n v) = some (v, []) := by
  have hread := takeNum_beBytes n v [] h
  rwa [List.append_nil] at hread

theorem takeFp_end (f : Fingerprint) : takeFp (fpBytes f) = some (f, []) := by
  have hread := takeFp_fpBytes f []
  rwa [List.append_nil] at hread

theorem takeLocation_end (l : Location) : takeLocation (locationBytes l) = some (l, []) := by
  have hread := takeLocation_locationBytes l []
  rwa [List.append_nil] at hread

theorem takePosition_end {q : Position} (hbucket : q.bucket < 4294967296) (hindex : q.index ≤ 7) :
    takePosition (positionBytes q) = some (q, []) := by
  have hread := takePosition_positionBytes q [] hbucket hindex
  rwa [List.append_nil] at hread

theorem atEnd_nil {α : Type} (v : α) : atEnd [] v = some v := rfl

theorem guarded_true {α : Type} {b : Bool} (h : b = true) (v : Option α) : guarded b v = v := if_pos h

/-! ## Codes read back (R184) -/

theorem flagOfCode_optCode (v : Option Bool) : flagOfCode (optCode flagCode v).toNat = some v := by
  rcases v with _ | _ | _ <;> rfl

theorem edgeOfCode_optCode (v : Option EdgeMode) : edgeOfCode (optCode edgeCode v).toNat = some v := by
  rcases v with _ | _ | _ <;> rfl

theorem nsStateOfCode_optCode (v : Option NsState) : nsStateOfCode (optCode nsStateCode v).toNat = some v := by
  rcases v with _ | _ | _ | _ <;> rfl

theorem targetOfCode_optCode (v : Option Port) :
    targetOfCode (optCode (fun p => BitVec.ofNat 8 (portNumber p)) v).toNat = some v := by
  rcases v with _ | _ | _ | _ | _ <;> rfl

theorem portOfNumber_portNumber (p : Port) : portOfNumber (portNumber p) = some p := by
  cases p <;> rfl

theorem portNumber_le (p : Port) : portNumber p ≤ 3 := by
  cases p <;> decide

theorem paramOfCode_paramCode (q : Param) : paramOfCode (paramCode q).toNat = some q := by
  cases q <;> rfl

theorem flagCode_toNat (b : Bool) : (flagCode b).toNat = if b = true then 1 else 0 := by
  cases b <;> rfl

theorem paramInRange_lt {q : Param} {v : Nat} (h : paramInRange q v = true) : v < 256 ^ 4 := by
  have hle := le_of_paramInRange h
  cases q <;> simp only [paramRange] at hle <;> omega

theorem placementInRange_lt {offset length : Nat} (h : placementInRange offset length = true) :
    offset < 256 ^ 4 ∧ length < 256 ^ 4 := by
  simp only [placementInRange, Bool.and_eq_true, decide_eq_true_eq] at h
  omega

/-! ## Bodies read back, kind by kind (R22, R56, R83, R106, R109, R134, R141, R181) -/

/-- A request that its kind's reader gives on the body that a master writes. -/
def ReadsBack (r : Request) : Prop := readBody (requestKind r) (requestWaits r) (requestBody r) = some r

theorem ref_readsBack {f : Fingerprint} {n : Nat} (h : requestInRange (.ref f n) = true) : ReadsBack (.ref f n) := by
  obtain ⟨hlow, hhigh⟩ : 1 ≤ n ∧ n ≤ 255 := by simpa [requestInRange] using h
  simp [ReadsBack, readBody, requestKind, requestBody, takeFp_fpBytes, takeNum_end (n := 1) (v := n) (by omega), guarded,
    hlow, atEnd]

theorem release_readsBack {f : Fingerprint} {n : Nat} (h : requestInRange (.release f n) = true) :
    ReadsBack (.release f n) := by
  obtain ⟨hlow, hhigh⟩ : 1 ≤ n ∧ n ≤ 255 := by simpa [requestInRange] using h
  simp [ReadsBack, readBody, requestKind, requestBody, takeFp_fpBytes, takeNum_end (n := 1) (v := n) (by omega), guarded,
    hlow, atEnd]

theorem commit_readsBack {t : Token} {f : Fingerprint} {l : Location} (h : requestInRange (.commit t f l) = true) :
    ReadsBack (.commit t f l) := by
  have hplace : placementInRange l.offset.toNat l.length.toNat = true := h
  simp [ReadsBack, readBody, requestKind, requestBody, takeToken_tokenBytes, takeFp_fpBytes, takeLocation_end, guarded,
    hplace, atEnd]

theorem move_readsBack {f : Fingerprint} {src dst off len : Nat} (h : requestInRange (.move f src dst off len) = true) :
    ReadsBack (.move f src dst off len) := by
  simp only [requestInRange, Bool.and_eq_true, decide_eq_true_eq] at h
  obtain ⟨⟨hsrc, hdst⟩, hplace⟩ := h
  obtain ⟨hoff, hlen⟩ := placementInRange_lt hplace
  simp [ReadsBack, readBody, readMove, requestKind, requestBody, takeFp_fpBytes,
    takeNum_beBytes 2 src _ (by omega), takeNum_beBytes 2 dst _ (by omega), takeNum_beBytes 4 off _ hoff,
    takeNum_end hlen, guarded, hplace, atEnd]

theorem batch_readsBack {b : BatchBody} (h : requestInRange (.batch b) = true) : ReadsBack (.batch b) := by
  simp only [requestInRange, Bool.and_eq_true, decide_eq_true_eq, List.all_eq_true] at h
  obtain ⟨⟨⟨hlow, hhigh⟩, hitems⟩, -⟩ := h
  have hread := takeItems_itemBytes (decide (b.kind = .release)) b.items fun i hi => by
    have hrange := hitems i hi
    by_cases hkind : b.kind = .release
    · simpa [hkind] using hrange
    · simpa [hkind] using hrange
  have hbatch : readBatch b.kind b.wait (requestBody (.batch b)) = some (.batch b) := by
    simp [readBatch, requestBody, takeNum_beBytes 4 b.checkWord.toNat _ (by have := b.checkWord.isLt; omega),
      takeNum_beBytes 1 b.items.length _ (by omega), guarded, hlow, hhigh, hread]
  obtain ⟨kind, wait, checkWord, items⟩ := b
  cases kind <;> exact hbatch

theorem restore_readsBack {x : RestoreBody} (h : requestInRange (.restore x) = true) : ReadsBack (.restore x) := by
  simp only [requestInRange, Bool.and_eq_true, decide_eq_true_eq] at h
  obtain ⟨⟨⟨⟨hbucket, hindex⟩, hstate⟩, hplace⟩, hns⟩ := h
  have hrefcount : x.refcount.toNat < 256 ^ 2 := by
    have := x.refcount.isLt
    omega
  simp [ReadsBack, readBody, readRestore, requestKind, requestBody, takePosition_positionBytes _ _ hbucket hindex,
    takeNum_byte, takeFp_fpBytes, takeNum_beBytes 2 _ _ hrefcount, takeLocation_locationBytes, hstate, guarded, hplace, hns,
    atEnd]

theorem setPort_readsBack (target : Option Port) (map : Option (BitVec 64)) (auto : Option Bool) :
    ReadsBack (.setPort target map auto) := by
  have hgiven : (flagCode map.isSome).toNat ≤ 1 := by
    rw [flagCode_toNat]
    split <;> decide
  have hmap : (if (flagCode map.isSome).toNat = 1 then some (map.getD 0#64) else none) = map := by
    cases map <;> rfl
  simp [ReadsBack, readBody, readSetPort, requestKind, requestBody, takeNum_byte, takeMap_mapBytes, targetOfCode_optCode,
    flagOfCode_optCode, guarded, hgiven, hmap, atEnd]

/-- A map that is not given is sent and not read (R141). -/
theorem setPort_mapUnread (target : Option Port) (auto : Option Bool) {map : List Byte} (h : map.length = 8) :
    readSetPort ((requestBody (.setPort target none auto)).take 2 ++ map ++
      (requestBody (.setPort target none auto)).drop 10) = some (.setPort target none auto) := by
  have hmap : ∀ rest, takeMap (map ++ rest) = some (mapOfBytes map, rest) := fun rest => by
    unfold takeMap
    rw [if_pos (by simp [h]), List.take_left' h, List.drop_left' h]
  have hlength : (mapBytes 0#64).length = 8 := by simp [mapBytes]
  have hbody : (requestBody (.setPort target none auto)).take 2 ++ map ++
      (requestBody (.setPort target none auto)).drop 10 =
        optCode (fun p => BitVec.ofNat 8 (portNumber p)) target :: flagCode false :: (map ++ [optCode flagCode auto]) := by
    simp [requestBody, hlength]
  rw [hbody]
  simp [readSetPort, takeNum_byte, hmap, targetOfCode_optCode, flagOfCode_optCode, guarded, flagCode, atEnd]

/-- Every request in range is read back from its body. -/
theorem readsBack (r : Request) (h : requestInRange r = true) : ReadsBack r := by
  cases r with
  | identify | portStatus | indexStatus | events | stats | openContainer | snapshot | format | restart => rfl
  | lookup f wait => simp [ReadsBack, readBody, requestKind, requestBody, requestWaits, takeFp_end, atEnd]
  | probe f => simp [ReadsBack, readBody, requestKind, requestBody, takeFp_end, atEnd]
  | ref f n => exact ref_readsBack h
  | release f n => exact release_readsBack h
  | commit t f l => exact commit_readsBack h
  | abandon t f =>
    simp [ReadsBack, readBody, requestKind, requestBody, takeToken_tokenBytes, takeFp_end, atEnd]
  | move f src dst off len => exact move_readsBack h
  | closeContainer c | reclaim c | containerStatus c | findEmpty c =>
    have hc : c < 256 ^ 2 := of_decide_eq_true h
    simp [ReadsBack, readBody, requestKind, requestBody, takeNum_end hc, atEnd]
  | cancel t =>
    have ht : t.toNat < 256 ^ 2 := t.isLt
    simp [ReadsBack, readBody, requestKind, requestBody, takeNum_end ht, atEnd]
  | batch b => exact batch_readsBack h
  | readSlot q | drop q =>
    simp only [requestInRange, Bool.and_eq_true, decide_eq_true_eq] at h
    obtain ⟨hbucket, hindex⟩ := h
    simp [ReadsBack, readBody, requestKind, requestBody, takePosition_end hbucket hindex, atEnd]
  | restore x => exact restore_readsBack h
  | setNamespace t state hold =>
    have ht : t ≤ 63 := of_decide_eq_true h
    simp [ReadsBack, readBody, requestKind, requestBody, takeNum_beBytes 1 t _ (by omega), takeNum_byte,
      nsStateOfCode_optCode, flagOfCode_optCode, guarded, ht, atEnd]
  | setPort target map auto => exact setPort_readsBack target map auto
  | admitPort q | evict q =>
    have hq := portNumber_le q
    simp [ReadsBack, readBody, requestKind, requestBody, takeNum_end (n := 1) (v := portNumber q) (by omega),
      portOfNumber_portNumber, atEnd]
  | setEventMask mask occ low =>
    have hmask : mask.toNat < 256 ^ 2 := by
      have := mask.isLt
      omega
    have hrange : mask.toNat < 8192 := mask.isLt
    simp [ReadsBack, readBody, requestKind, requestBody, takeNum_beBytes 2 _ _ hmask, takeNum_byte, edgeOfCode_optCode,
      guarded, hrange, atEnd]
  | setParameter q v =>
    have hv := paramInRange_lt h
    have hrange : paramInRange q v = true := h
    simp [ReadsBack, readBody, requestKind, requestBody, takeNum_byte, takeNum_end hv, paramOfCode_paramCode, guarded,
      hrange, atEnd]
  | getParameter q => simp [ReadsBack, readBody, requestKind, requestBody, takeNum_byte, paramOfCode_paramCode, atEnd]

/-! ## The header of a request frame (R109, R134, R181) -/

theorem waits_mayWait {r : Request} (h : requestInRange r = true) (hwait : requestWaits r = true) :
    mayWait (requestKind r) = true := by
  cases r with
  | lookup f wait => rfl
  | batch b =>
    obtain ⟨kind, wait, checkWord, items⟩ := b
    obtain rfl : wait = true := hwait
    cases kind with
    | lookup => rfl
    | probe | release => simp [requestInRange] at h
  | _ => exact nomatch hwait

/-- The length of a request's body (R181). -/
def bodyLength : Request → Nat
  | .identify | .portStatus | .indexStatus | .events | .stats | .openContainer | .snapshot | .format | .restart => 0
  | .lookup _ _ | .probe _ => 32
  | .ref _ _ | .release _ _ => 33
  | .commit _ _ _ => 50
  | .abandon _ _ => 40
  | .move _ _ _ _ _ => 44
  | .closeContainer _ | .reclaim _ | .containerStatus _ | .findEmpty _ | .cancel _ => 2
  | .batch b => 5 + (if b.kind = .release then 33 else 32) * b.items.length
  | .readSlot _ | .drop _ => 5
  | .restore _ => 51
  | .setNamespace _ _ _ => 3
  | .setPort _ _ _ => 11
  | .admitPort _ | .evict _ | .getParameter _ => 1
  | .setEventMask _ _ _ => 4
  | .setParameter _ _ => 5

theorem itemBytes_length_eq (withN : Bool) (items : List BatchItem) :
    (itemBytes withN items).length = (if withN = true then 33 else 32) * items.length := by
  unfold itemBytes
  induction items with
  | nil => simp
  | cons i rest ih =>
    rw [List.flatMap_cons, List.length_append, ih, List.length_cons]
    cases withN <;> simp [fpBytes] <;> omega

theorem requestBody_length (r : Request) : (requestBody r).length = bodyLength r := by
  cases r with
  | batch b =>
    simp only [requestBody, bodyLength, List.length_append, beBytes_length, itemBytes_length_eq, decide_eq_true_eq]
  | _ => simp [requestBody, bodyLength, fpBytes, tokenBytes, locationBytes, positionBytes, mapBytes]

theorem bodyLength_lt {r : Request} (h : requestInRange r = true) : bodyLength r < 65536 := by
  cases r with
  | batch b =>
    simp only [requestInRange, Bool.and_eq_true, decide_eq_true_eq] at h
    obtain ⟨⟨⟨-, hhigh⟩, -⟩, -⟩ := h
    have hbatch : bodyLength (.batch b) = 5 + (if b.kind = .release then 33 else 32) * b.items.length := rfl
    rw [hbatch]
    split <;> omega
  | _ => simp [bodyLength]

/-- A frame whose header is well formed is read by its body (R134, R181). -/
theorem readRequest_of {k : Kind} {f : RequestFrame} {wait : Bool} (hformat : f.format = 0x01#8)
    (hflags : f.flags = flagCode wait) (hwait : wait = true → mayWait k = true) (hns : f.ns.toNat ≤ 63)
    (hlength : f.bodyLength.toNat = f.body.length) : readRequest k f = readBody k wait f.body := by
  have hflag : waitFlag f = wait := by
    unfold waitFlag
    rw [hflags]
    cases wait <;> rfl
  unfold readRequest
  rw [hflag]
  refine if_pos ⟨hformat, ?_, hwait, hns, hlength⟩
  rw [hflags]
  cases wait <;> rfl

theorem requestFrame_header {r : Request} (h : requestInRange r = true) {ns : Nat} (hns : ns ≤ 63) (tag : Tag) :
    (requestFrame r ns tag).ns.toNat ≤ 63 ∧
      (requestFrame r ns tag).bodyLength.toNat = (requestBody r).length := by
  have hlength := bodyLength_lt h
  rw [← requestBody_length] at hlength
  refine ⟨?_, ?_⟩
  · simp only [requestFrame, BitVec.toNat_ofNat]
    omega
  · simp only [requestFrame, BitVec.toNat_ofNat]
    omega

/-- What a master writes for a request in range is what the port reads (R134, R181). -/
theorem readRequest_requestFrame {r : Request} (h : requestInRange r = true) {ns : Nat} (hns : ns ≤ 63) (tag : Tag) :
    readRequest (requestKind r) (requestFrame r ns tag) = some r := by
  obtain ⟨hns', hlength⟩ := requestFrame_header h hns tag
  rw [readRequest_of rfl rfl (waits_mayWait h) hns' hlength]
  exact readsBack r h

end Sys2Proof.Machine
end

section
/-! Request frames: what the port reads is spelled by the frame (R22, R56, R83, R106, R109, R134, R141, R181). -/

namespace Sys2Proof.Machine

/-! ## What each reader of a field gives -/

theorem takeNum_some (n : Nat) (b : List Byte) (v : Nat) (rest : List Byte) :
    takeNum n b = some (v, rest) ↔ v < 256 ^ n ∧ b = beBytes n v ++ rest := by
  constructor
  · intro h
    obtain ⟨hbytes, hlt⟩ := takeNum_inv h
    exact ⟨hlt, hbytes⟩
  · rintro ⟨hlt, rfl⟩
    exact takeNum_beBytes n v rest hlt

theorem takeFp_some (b : List Byte) (f : Fingerprint) (rest : List Byte) :
    takeFp b = some (f, rest) ↔ b = fpBytes f ++ rest :=
  ⟨takeFp_inv, fun h => h ▸ takeFp_fpBytes f rest⟩

theorem takeLocation_some (b : List Byte) (l : Location) (rest : List Byte) :
    takeLocation b = some (l, rest) ↔ b = locationBytes l ++ rest :=
  ⟨takeLocation_inv, fun h => h ▸ takeLocation_locationBytes l rest⟩

theorem takeToken_some (b : List Byte) (t : Token) (rest : List Byte) :
    takeToken b = some (t, rest) ↔ b = tokenBytes t ++ rest :=
  ⟨takeToken_inv, fun h => h ▸ takeToken_tokenBytes t rest⟩

theorem takeMap_some (b : List Byte) (m : BitVec 64) (rest : List Byte) :
    takeMap b = some (m, rest) ↔ b = mapBytes m ++ rest :=
  ⟨takeMap_inv, fun h => h ▸ takeMap_mapBytes m rest⟩

theorem takePosition_some (b : List Byte) (q : Position) (rest : List Byte) :
    takePosition b = some (q, rest) ↔ (q.bucket < 4294967296 ∧ q.index ≤ 7) ∧ b = positionBytes q ++ rest := by
  constructor
  · intro h
    obtain ⟨hbytes, hbucket, hindex⟩ := takePosition_inv h
    exact ⟨⟨hbucket, hindex⟩, hbytes⟩
  · rintro ⟨⟨hbucket, hindex⟩, rfl⟩
    exact takePosition_positionBytes q rest hbucket hindex

theorem atEnd_some {α : Type} (rest : List Byte) (v w : α) : atEnd rest v = some w ↔ rest = [] ∧ v = w := by
  constructor
  · exact atEnd_inv
  · rintro ⟨rfl, rfl⟩
    rfl

theorem guarded_some {α : Type} (b : Bool) (v : Option α) (w : α) : guarded b v = some w ↔ b = true ∧ v = some w := by
  constructor
  · exact guarded_inv
  · rintro ⟨hb, hv⟩
    rw [guarded_true hb, hv]

/-! ## Bodies as read -/

/-- The body is the one a master writes for the request, but for a map that is not given (R141, R181). -/
def Spells (body : List Byte) (r : Request) : Prop :=
  body = requestBody r ∨ ∃ target auto map, r = .setPort target none auto ∧ map.length = 8 ∧
    body = (requestBody r).take 2 ++ map ++ (requestBody r).drop 10

/-- The request is of the kind, carries the WAIT flag, is in range, and is spelled by the body. -/
def IsBodyOf (k : Kind) (wait : Bool) (body : List Byte) (r : Request) : Prop :=
  requestKind r = k ∧ requestWaits r = wait ∧ requestInRange r = true ∧ Spells body r

section
variable {body : List Byte} {r : Request}

theorem isBodyOf_ref (h : readBody .ref false body = some r) : IsBodyOf .ref false body r := by
  simp only [readBody, Option.bind_eq_some_iff, Prod.exists, takeFp_some, takeNum_some, guarded_some, atEnd_some,
    decide_eq_true_eq] at h
  obtain ⟨f, _, rfl, n, _, ⟨hn, rfl⟩, hlow, rfl, rfl⟩ := h
  exact ⟨rfl, rfl, by simp [requestInRange]; omega, .inl (by simp [requestBody])⟩

theorem isBodyOf_release (h : readBody .release false body = some r) : IsBodyOf .release false body r := by
  simp only [readBody, Option.bind_eq_some_iff, Prod.exists, takeFp_some, takeNum_some, guarded_some, atEnd_some,
    decide_eq_true_eq] at h
  obtain ⟨f, _, rfl, n, _, ⟨hn, rfl⟩, hlow, rfl, rfl⟩ := h
  exact ⟨rfl, rfl, by simp [requestInRange]; omega, .inl (by simp [requestBody])⟩

theorem isBodyOf_commit (h : readBody .commit false body = some r) : IsBodyOf .commit false body r := by
  simp only [readBody, Option.bind_eq_some_iff, Prod.exists, takeToken_some, takeFp_some, takeLocation_some, guarded_some,
    atEnd_some] at h
  obtain ⟨t, _, rfl, f, _, rfl, l, _, rfl, hplace, rfl, rfl⟩ := h
  exact ⟨rfl, rfl, hplace, .inl (by simp [requestBody])⟩

theorem isBodyOf_abandon (h : readBody .abandon false body = some r) : IsBodyOf .abandon false body r := by
  simp only [readBody, Option.bind_eq_some_iff, Prod.exists, takeToken_some, takeFp_some, atEnd_some] at h
  obtain ⟨t, _, rfl, f, _, rfl, rfl, rfl⟩ := h
  exact ⟨rfl, rfl, rfl, .inl (by simp [requestBody])⟩

theorem isBodyOf_move (h : readBody .move false body = some r) : IsBodyOf .move false body r := by
  simp only [readBody, readMove, Option.bind_eq_some_iff, Prod.exists, takeFp_some, takeNum_some, guarded_some,
    atEnd_some] at h
  obtain ⟨f, _, rfl, src, _, ⟨hsrc, rfl⟩, dst, _, ⟨hdst, rfl⟩, off, _, ⟨-, rfl⟩, len, _, ⟨-, rfl⟩, hplace, rfl, rfl⟩ := h
  refine ⟨rfl, rfl, ?_, .inl (by simp [requestBody])⟩
  simp only [requestInRange, Bool.and_eq_true, decide_eq_true_eq]
  exact ⟨⟨hsrc, hdst⟩, hplace⟩

/-- The bodies that are one number of two bytes. -/
theorem number_body {c : Nat} (h : c < 256 ^ 2 ∧ body = beBytes 2 c ++ []) : c < 65536 ∧ body = beBytes 2 c := by
  obtain ⟨hc, rfl⟩ := h
  exact ⟨hc, List.append_nil _⟩

theorem isBodyOf_cancel (h : readBody .cancel false body = some r) : IsBodyOf .cancel false body r := by
  simp only [readBody, Option.bind_eq_some_iff, Prod.exists, takeNum_some, atEnd_some] at h
  obtain ⟨t, _, hbody, rfl, rfl⟩ := h
  obtain ⟨ht, rfl⟩ := number_body hbody
  refine ⟨rfl, rfl, rfl, .inl ?_⟩
  rw [requestBody, BitVec.toNat_ofNat, Nat.mod_eq_of_lt (by omega)]

theorem readBatch_inv {kind : BatchKind} {wait : Bool} (hwait : wait = true → kind = .lookup)
    (h : readBatch kind wait body = some r) :
    (∃ checkWord items, r = .batch { kind := kind, wait := wait, checkWord := checkWord, items := items }) ∧
      requestInRange r = true ∧ body = requestBody r := by
  simp only [readBatch, Option.bind_eq_some_iff, Prod.exists, takeNum_some, guarded_some, Option.map_eq_some_iff,
    Bool.and_eq_true, decide_eq_true_eq] at h
  obtain ⟨w, _, ⟨hw, rfl⟩, c, rest, ⟨hc, rfl⟩, ⟨hlow, hhigh⟩, items, hitems, rfl⟩ := h
  obtain ⟨hlength, rfl, hrange⟩ := takeItems_inv hitems
  refine ⟨⟨_, _, rfl⟩, ?_, ?_⟩
  · simp only [requestInRange, Bool.and_eq_true, decide_eq_true_eq, List.all_eq_true, Bool.or_eq_true]
    refine ⟨⟨⟨by omega, by omega⟩, fun i hi => ?_⟩, ?_⟩
    · have hone := hrange i hi
      by_cases hkind : kind = .release
      · simpa [hkind] using hone
      · simpa [hkind] using hone
    · cases wait with
      | false => exact .inr rfl
      | true => exact .inl (hwait rfl)
  · simp only [requestBody, BitVec.toNat_ofNat, hlength, List.append_assoc]
    rw [Nat.mod_eq_of_lt (by omega)]

theorem isBodyOf_readSlot (h : readBody .readSlot false body = some r) : IsBodyOf .readSlot false body r := by
  simp only [readBody, Option.bind_eq_some_iff, Prod.exists, takePosition_some, atEnd_some] at h
  obtain ⟨q, _, ⟨hq, rfl⟩, rfl, rfl⟩ := h
  exact ⟨rfl, rfl, by simpa [requestInRange] using hq, .inl (by simp [requestBody])⟩

theorem isBodyOf_drop (h : readBody .drop false body = some r) : IsBodyOf .drop false body r := by
  simp only [readBody, Option.bind_eq_some_iff, Prod.exists, takePosition_some, atEnd_some] at h
  obtain ⟨q, _, ⟨hq, rfl⟩, rfl, rfl⟩ := h
  exact ⟨rfl, rfl, by simpa [requestInRange] using hq, .inl (by simp [requestBody])⟩

theorem isBodyOf_restore (h : readBody .restore false body = some r) : IsBodyOf .restore false body r := by
  simp only [readBody, readRestore, Option.bind_eq_some_iff, Prod.exists, takePosition_some, takeNum_some, takeFp_some,
    takeLocation_some, guarded_some, atEnd_some, Bool.and_eq_true, decide_eq_true_eq] at h
  obtain ⟨pos, _, ⟨hpos, rfl⟩, st, _, ⟨hst, rfl⟩, f, _, rfl, rc, _, ⟨hrc, rfl⟩, l, _, rfl, ns, _, ⟨hns, rfl⟩, state, hstate,
    ⟨hplace, hle⟩, rfl, rfl⟩ := h
  obtain ⟨hcode, hstate', -⟩ := restoreState_inv hstate
  have hrefcount : (BitVec.ofNat 16 rc).toNat = rc := by
    rw [BitVec.toNat_ofNat, Nat.mod_eq_of_lt (by omega)]
  have hnumber : (BitVec.ofNat 8 ns).toNat = ns := by
    rw [BitVec.toNat_ofNat, Nat.mod_eq_of_lt (by omega)]
  refine ⟨rfl, rfl, ?_, .inl ?_⟩
  · simp only [requestInRange, Bool.and_eq_true, decide_eq_true_eq, hrefcount, hnumber]
    exact ⟨⟨⟨hpos, hstate'⟩, hplace⟩, hle⟩
  · simp only [requestBody, hrefcount, hcode, beBytes_ofNat, List.append_assoc, List.append_nil]

theorem isBodyOf_setNamespace (h : readBody .setNamespace false body = some r) : IsBodyOf .setNamespace false body r := by
  simp only [readBody, Option.bind_eq_some_iff, Prod.exists, takeNum_some, guarded_some, atEnd_some,
    decide_eq_true_eq] at h
  obtain ⟨t, _, ⟨-, rfl⟩, st, _, ⟨-, rfl⟩, hd, _, ⟨-, rfl⟩, state, hstate, hold, hhold, hrange, rfl, rfl⟩ := h
  refine ⟨rfl, rfl, decide_eq_true hrange, .inl ?_⟩
  rw [requestBody, nsStateOfCode_inv hstate, flagOfCode_inv hhold]
  simp only [beBytes_ofNat]
  rfl

theorem isBodyOf_setPort (h : readBody .setPort false body = some r) : IsBodyOf .setPort false body r := by
  simp only [readBody, readSetPort, Option.bind_eq_some_iff, Prod.exists, takeNum_some, takeMap_some, guarded_some,
    atEnd_some, decide_eq_true_eq] at h
  obtain ⟨t, _, ⟨-, rfl⟩, g, _, ⟨-, rfl⟩, map, _, rfl, a, _, ⟨-, rfl⟩, target, htarget, auto, hauto, hgiven, rfl, rfl⟩ := h
  have hlength : ∀ m : BitVec 64, (mapBytes m).length = 8 := fun m => by simp [mapBytes]
  refine ⟨rfl, rfl, rfl, ?_⟩
  obtain rfl | rfl : g = 0 ∨ g = 1 := by omega
  · refine .inr ⟨target, auto, mapBytes map, rfl, hlength map, ?_⟩
    simp [requestBody, targetOfCode_inv htarget, flagOfCode_inv hauto, beBytes_ofNat, hlength, flagCode]
  · refine .inl ?_
    simp [requestBody, targetOfCode_inv htarget, flagOfCode_inv hauto, beBytes_ofNat, flagCode]

theorem isBodyOf_admitPort (h : readBody .admitPort false body = some r) : IsBodyOf .admitPort false body r := by
  simp only [readBody, Option.bind_eq_some_iff, Prod.exists, takeNum_some, atEnd_some] at h
  obtain ⟨t, _, ⟨-, rfl⟩, q, hq, rfl, rfl⟩ := h
  exact ⟨rfl, rfl, rfl, .inl (by simp [requestBody, portOfNumber_inv hq])⟩

theorem isBodyOf_evict (h : readBody .evict false body = some r) : IsBodyOf .evict false body r := by
  simp only [readBody, Option.bind_eq_some_iff, Prod.exists, takeNum_some, atEnd_some] at h
  obtain ⟨t, _, ⟨-, rfl⟩, q, hq, rfl, rfl⟩ := h
  exact ⟨rfl, rfl, rfl, .inl (by simp [requestBody, portOfNumber_inv hq])⟩

theorem isBodyOf_setEventMask (h : readBody .setEventMask false body = some r) : IsBodyOf .setEventMask false body r := by
  simp only [readBody, Option.bind_eq_some_iff, Prod.exists, takeNum_some, guarded_some, atEnd_some,
    decide_eq_true_eq] at h
  obtain ⟨m, _, ⟨-, rfl⟩, o, _, ⟨-, rfl⟩, l, _, ⟨-, rfl⟩, occ, hocc, low, hlow, hrange, rfl, rfl⟩ := h
  refine ⟨rfl, rfl, rfl, .inl ?_⟩
  rw [requestBody, BitVec.toNat_ofNat, Nat.mod_eq_of_lt (by omega), edgeOfCode_inv hocc, edgeOfCode_inv hlow]
  simp only [beBytes_ofNat]
  rfl

theorem isBodyOf_setParameter (h : readBody .setParameter false body = some r) : IsBodyOf .setParameter false body r := by
  simp only [readBody, Option.bind_eq_some_iff, Prod.exists, takeNum_some, guarded_some, atEnd_some] at h
  obtain ⟨c, _, ⟨hc, rfl⟩, v, _, ⟨-, rfl⟩, q, hq, hrange, rfl, rfl⟩ := h
  refine ⟨rfl, rfl, hrange, .inl ?_⟩
  rw [requestBody, paramOfCode_inv hq hc, beBytes_ofNat, List.append_nil]

theorem isBodyOf_getParameter (h : readBody .getParameter false body = some r) : IsBodyOf .getParameter false body r := by
  simp only [readBody, Option.bind_eq_some_iff, Prod.exists, takeNum_some, atEnd_some] at h
  obtain ⟨c, _, ⟨hc, rfl⟩, q, hq, rfl, rfl⟩ := h
  refine ⟨rfl, rfl, rfl, .inl ?_⟩
  rw [requestBody, paramOfCode_inv hq hc, beBytes_ofNat, List.append_nil]

end

/-- What the port reads from a body is of the frame's kind, in range, and spelled by the body. -/
theorem isBodyOf_of_readBody {k : Kind} {wait : Bool} {body : List Byte} {r : Request}
    (hwait : wait = true → mayWait k = true) (h : readBody k wait body = some r) : IsBodyOf k wait body r := by
  by_cases hmay : mayWait k = true
  · cases k
    case lookup =>
      simp only [readBody, Option.bind_eq_some_iff, Prod.exists, takeFp_some, atEnd_some] at h
      obtain ⟨f, _, rfl, rfl, rfl⟩ := h
      exact ⟨rfl, rfl, rfl, .inl (by simp [requestBody])⟩
    case lookupBatch =>
      obtain ⟨⟨checkWord, items, rfl⟩, hrange, hbody⟩ := readBatch_inv (fun _ => rfl) h
      exact ⟨rfl, rfl, hrange, .inl hbody⟩
    all_goals exact absurd hmay (by decide)
  obtain rfl : wait = false := Bool.eq_false_iff.mpr fun htrue => hmay (hwait htrue)
  cases k
  case lookup | lookupBatch => exact absurd rfl hmay
  case identify | portStatus | indexStatus | events | stats | openContainer | snapshot | format | restart =>
    obtain ⟨rfl, rfl⟩ := (atEnd_some _ _ _).mp h
    exact ⟨rfl, rfl, rfl, .inl rfl⟩
  case probe =>
    simp only [readBody, Option.bind_eq_some_iff, Prod.exists, takeFp_some, atEnd_some] at h
    obtain ⟨f, _, rfl, rfl, rfl⟩ := h
    exact ⟨rfl, rfl, rfl, .inl (by simp [requestBody])⟩
  case closeContainer | reclaim | containerStatus | findEmpty =>
    simp only [readBody, Option.bind_eq_some_iff, Prod.exists, takeNum_some, atEnd_some] at h
    obtain ⟨c, _, hbody, rfl, rfl⟩ := h
    obtain ⟨hc, rfl⟩ := number_body hbody
    exact ⟨rfl, rfl, decide_eq_true hc, .inl rfl⟩
  case probeBatch =>
    obtain ⟨⟨checkWord, items, rfl⟩, hrange, hbody⟩ := readBatch_inv (by decide) h
    exact ⟨rfl, rfl, hrange, .inl hbody⟩
  case releaseBatch =>
    obtain ⟨⟨checkWord, items, rfl⟩, hrange, hbody⟩ := readBatch_inv (by decide) h
    exact ⟨rfl, rfl, hrange, .inl hbody⟩
  case ref => exact isBodyOf_ref h
  case release => exact isBodyOf_release h
  case commit => exact isBodyOf_commit h
  case abandon => exact isBodyOf_abandon h
  case move => exact isBodyOf_move h
  case cancel => exact isBodyOf_cancel h
  case readSlot => exact isBodyOf_readSlot h
  case drop => exact isBodyOf_drop h
  case restore => exact isBodyOf_restore h
  case setNamespace => exact isBodyOf_setNamespace h
  case setPort => exact isBodyOf_setPort h
  case admitPort => exact isBodyOf_admitPort h
  case evict => exact isBodyOf_evict h
  case setEventMask => exact isBodyOf_setEventMask h
  case setParameter => exact isBodyOf_setParameter h
  case getParameter => exact isBodyOf_getParameter h

/-! ## Frames as read -/

/-- Flags with no bit above the WAIT flag are that flag's code (R109, R181). -/
theorem flags_eq_flagCode : ∀ x : Byte, x &&& 0xFE#8 = 0#8 → x = flagCode (x.getLsbD 0) := by decide

/-- The header and body of a frame that reads as a request (R134, R181). -/
theorem readRequest_inv {k : Kind} {f : RequestFrame} {r : Request} (h : readRequest k f = some r) :
    f.format = 0x01#8 ∧ f.ns.toNat ≤ 63 ∧ f.bodyLength.toNat = f.body.length ∧ f.flags = flagCode (waitFlag f) ∧
      (waitFlag f = true → mayWait k = true) ∧ IsBodyOf k (waitFlag f) f.body r := by
  unfold readRequest at h
  split at h
  · next hheader =>
    obtain ⟨hformat, hflags, hwait, hns, hlength⟩ := hheader
    exact ⟨hformat, hns, hlength, flags_eq_flagCode _ hflags, hwait, isBodyOf_of_readBody hwait h⟩
  · exact nomatch h

theorem Spells.length {body : List Byte} {r : Request} (h : Spells body r) : body.length = bodyLength r := by
  rw [← requestBody_length]
  rcases h with rfl | ⟨target, auto, map, rfl, hmap, rfl⟩
  · rfl
  · simp [hmap, requestBody_length, bodyLength]

/-- A body agrees with the one a master writes outside the eight map bytes. -/
theorem Spells.outside {body : List Byte} {r : Request} (h : Spells body r) :
    body.take 2 = (requestBody r).take 2 ∧ body.drop 10 = (requestBody r).drop 10 := by
  rcases h with rfl | ⟨target, auto, map, rfl, hmap, rfl⟩
  · exact ⟨rfl, rfl⟩
  · have hfront : ((requestBody (.setPort target none auto)).take 2).length = 2 := by
      simp [requestBody_length, bodyLength]
    have hten : ((requestBody (.setPort target none auto)).take 2 ++ map).length = 10 := by
      rw [List.length_append, hfront, hmap]
    exact ⟨by rw [List.append_assoc, List.take_left' hfront], List.drop_left' hten⟩

theorem Spells.whole {body : List Byte} {r : Request} (h : Spells body r) (hr : ∀ p a, r ≠ .setPort p none a) :
    body = requestBody r := by
  rcases h with h | ⟨target, auto, map, heq, -, -⟩
  · exact h
  · exact absurd heq (hr target auto)

/-! ## Ranges (R56, R81, R83, R106, R109, R134, R178) -/

theorem placementInRange_iff (offset length : Nat) :
    placementInRange offset length = true ↔ 1 ≤ length ∧ length ≤ 65536 ∧ offset ≤ 67108863 := by
  simp [placementInRange, and_assoc]

theorem paramInRange_iff (q : Param) (v : Nat) :
    paramInRange q v = true ↔ (paramRange q).1 ≤ v ∧ v ≤ (paramRange q).2 := by
  simp [paramInRange]

/-- The state and refcount that a RESTORE may supply (R106). -/
theorem restoreState_entryCode (st : EntryState) (n : Nat) :
    restoreState (entryCode st).toNat n = some st ↔
      (st = .stored ∧ 1 ≤ n ∧ n ≤ 65534 ∨ st = .pinned ∧ n = 65535) := by
  unfold restoreState Config.refcountMax
  cases st <;> simp [entryCode]
  all_goals omega

/-- The ranges of a batch: its items, and WAIT on LOOKUP_BATCH alone (R81, R109). -/
theorem batch_inRange_iff (b : BatchBody) :
    requestInRange (.batch b) = true ↔
      1 ≤ b.items.length ∧ b.items.length ≤ 128 ∧ (b.wait = true → b.kind = .lookup) ∧
        ∀ i ∈ b.items, if b.kind = .release then 1 ≤ i.n ∧ i.n ≤ 255 else i.n = 0 := by
  have hitem (i : BatchItem) :
      (if b.kind = .release then decide (1 ≤ i.n) && decide (i.n ≤ 255) else decide (i.n = 0)) = true ↔
        if b.kind = .release then 1 ≤ i.n ∧ i.n ≤ 255 else i.n = 0 := by
    split <;> simp
  have hwait : (decide (b.kind = .lookup) || !b.wait) = true ↔ (b.wait = true → b.kind = .lookup) := by
    cases b.wait <;> simp
  simp only [requestInRange, Bool.and_eq_true, decide_eq_true_eq, List.all_eq_true, hitem, hwait]
  constructor
  · rintro ⟨⟨⟨hnonempty, hcount⟩, hitems⟩, hlookup⟩
    exact ⟨hnonempty, hcount, hlookup, hitems⟩
  · rintro ⟨hnonempty, hcount, hlookup, hitems⟩
    exact ⟨⟨⟨hnonempty, hcount⟩, hitems⟩, hlookup⟩

/-- Settles O57: a request in range read back, a map not given, what a frame that is read holds, and the ranges. -/
theorem requestFramesReadBack : Obligations.RequestFramesReadBack := by
  refine ⟨fun r ns tag h hns => readRequest_requestFrame h hns tag, fun p a ns tag map hns hmap => ?_,
    fun k f r h => ?_, fun r => ?_⟩
  · intro f
    obtain ⟨hns', hlength⟩ := requestFrame_header (r := .setPort p none a) rfl hns tag
    have hbody : (f.body.take 2 ++ map ++ f.body.drop 10).length = (requestBody (.setPort p none a)).length := by
      have hspells : Spells (f.body.take 2 ++ map ++ f.body.drop 10) (.setPort p none a) :=
        .inr ⟨p, a, map, rfl, hmap, rfl⟩
      rw [hspells.length, requestBody_length]
    refine (readRequest_of (f := { f with body := f.body.take 2 ++ map ++ f.body.drop 10 }) (wait := false)
      rfl rfl (fun hfalse => nomatch hfalse) hns' (hlength.trans hbody.symm)).trans ?_
    exact setPort_mapUnread p a hmap
  · obtain ⟨hformat, hns, hlength, hflags, hmay, hkind, hwaits, hrange, hspells⟩ := readRequest_inv h
    obtain ⟨htake, hdrop⟩ := hspells.outside
    refine ⟨hrange, hkind, hformat, hns, hlength, ?_, hspells.whole, htake, hdrop, hspells.length⟩
    rw [hflags, hwaits]
    cases hflag : waitFlag f with
    | false => exact .inl ⟨rfl, rfl⟩
    | true => exact .inr ⟨rfl, rfl, by simpa [mayWait] using hmay hflag⟩
  · intro number placement position
    cases r with
    | ref f n | release f n => simp [requestInRange, number]
    | commit t f l => exact placementInRange_iff _ _
    | move f src dst off len => simp [requestInRange, placement, placementInRange_iff, and_assoc]
    | closeContainer c | reclaim c | containerStatus c | findEmpty c => simp [requestInRange]
    | batch b => exact batch_inRange_iff b
    | readSlot q | drop q => simp [requestInRange, position]
    | restore x =>
      simp only [requestInRange, Bool.and_eq_true, decide_eq_true_eq, placementInRange_iff, restoreState_entryCode]
      constructor
      · rintro ⟨⟨⟨hposition, hstate⟩, hplacement⟩, hns⟩
        exact ⟨hposition, hplacement, hns, hstate⟩
      · rintro ⟨hposition, hplacement, hns, hstate⟩
        exact ⟨⟨⟨hposition, hstate⟩, hplacement⟩, hns⟩
    | setNamespace t state hold => simp [requestInRange]
    | setParameter q v =>
      have hrange : requestInRange (.setParameter q v) = true ↔ _ := paramInRange_iff q v
      rw [hrange]
      cases q <;> simp [paramRange]
    | _ => simp [requestInRange]

end Sys2Proof.Machine
end
